-- ==== Sys2Proof/Word.lean ====
section
/-! DEFINITION. The widths the spec gives the block's values (R7, R9, R31, R39), and `mask_N`. -/

namespace Sys2Proof

/-- An event word (R39): 32 bits, every event exactly one of them (R51). -/
abbrev Word := BitVec 32

/-- One byte of a stored event word (R32). -/
abbrev Byte := BitVec 8

/-- The role index field `IDX` (R41), unsigned. -/
abbrev Idx := BitVec 8

/-- A row or column mask. The widest is nine bits (KBD); on KPD the bits above `W = 3` are zero
(R5, R11, R12; log 6). -/
abbrev Mask := BitVec 9

/-- The time increment field `DELTA` (R43), unsigned. -/
abbrev Delta := BitVec 24

/-- A level (R7, R9): `true` is 1, released or inactive, and `false` is 0, driven or active. -/
abbrev Level := Bool

/-- `mask_N = 2^N - 1` (R7), as a nine-bit mask. -/
def maskOf (n : Nat) : Mask := BitVec.ofNat 9 (2 ^ n - 1)

end Sys2Proof
end

