-- ==== Sys2Proof/Config.lean ====
section
/-! DEFINITION. The implementation parameters of R5, and the pin roles of R29 that `PINMAP` uses.
The configuration is fixed for an instance of the block; no event changes it. -/

namespace Sys2Proof

/-- `VARIANT` (R5, R81). -/
inductive Variant where
  | kbd
  | kpd
deriving DecidableEq, Repr

/-- `TIE_ORDER` (R68): a deadline equal to the time of an event, which goes first. -/
inductive TieOrder where
  | timerFirst
  | eventFirst
deriving DecidableEq, Repr

/-- The pin roles of R29. The role `COLS` is `W` bits wide and each bit lands on a pin of its own
(R83), so it is one role for each column bit. -/
inductive Role where
  | row (i : Nat)
  | wdog
  | hclk
  | hdataO
  | kdataO
  | col (j : Nat)
  | hdataI
  | direct (k : Nat)
  | kclkI
  | kdataI
deriving DecidableEq, Repr

/-- A physical pin of the microcontroller. The spec has no pin numbers (N1): any natural is one. -/
abbrev PhysPin := Nat

/-- The parameters of R5. -/
structure Config where
  /-- `VARIANT`. -/
  variant : Variant
  /-- `ND_KBD`, the OPEN count of the keyboard's direct inputs. -/
  ndKbd : Nat
  /-- `T_LONG` in microseconds. -/
  tLong : Nat
  /-- `T_SHORT` in microseconds. -/
  tShort : Nat
  /-- `TIE_ORDER`. -/
  tieOrder : TieOrder
  /-- `KIN_INVERT`. -/
  kinInvert : Bool
  /-- `DIRECT_INVERT`. -/
  directInvert : Bool
  /-- `PINMAP`, as the list of the pins that carry roles. On KPD the role `WDOG` is placed by
  `kpdWdogPin` and not here. -/
  pinMap : List (PhysPin × List Role)
  /-- `KPD_WDOG_PIN`, the keypad pin that carries `WDOG` (R86). -/
  kpdWdogPin : PhysPin
  /-- `KEYS0`, the key-state rows at device start. -/
  keys0 : List Mask
  /-- `DIRECT0`, the direct inputs at device start. -/
  direct0 : List Level
  /-- `RESET_ACTIVE_LEVEL`. No rule reads it (R5). -/
  resetActiveLevel : Level
deriving DecidableEq, Repr

namespace Config

/-- `R`, the row count (R5, R81). -/
def rows (c : Config) : Nat :=
  match c.variant with
  | .kbd => 9
  | .kpd => 3

/-- `W`, the width of a key-state row and of the column read: `W = R` (R5). -/
def cols (c : Config) : Nat := c.rows

/-- `ND`, the count of direct inputs (R5, R81). -/
def nd (c : Config) : Nat :=
  match c.variant with
  | .kbd => c.ndKbd
  | .kpd => 3

/-- What R5 asks of the parameters: both delays at least 1, `ND_KBD` at most 16, `KEYS0` any `R`
masks of width `W` (R12), `DIRECT0` any `ND` levels (R13). -/
def wf (c : Config) : Bool :=
  decide (1 ≤ c.tLong) && decide (1 ≤ c.tShort) && decide (c.ndKbd ≤ 16)
    && decide (c.keys0.length = c.rows) && c.keys0.all (fun m => decide (m.toNat < 2 ^ c.cols))
    && decide (c.direct0.length = c.nd)

/-- A configuration with the defaults of R5, and with the launch arguments the spec's test vectors
use: no key pressed, every direct input 1 (DESIGN CHOICE, log 3). The OPEN parameters that have no
default are set to the least they can be: no pin carries a role but `WDOG` on KPD, which stands on
pin 0. -/
def standard (v : Variant) (ndKbd : Nat) : Config where
  variant := v
  ndKbd := ndKbd
  tLong := 56000
  tShort := 5600
  tieOrder := .timerFirst
  kinInvert := true
  directInvert := false
  pinMap := []
  kpdWdogPin := 0
  keys0 := match v with
    | .kbd => List.replicate 9 (maskOf 9)
    | .kpd => List.replicate 3 (maskOf 3)
  direct0 := match v with
    | .kbd => List.replicate ndKbd true
    | .kpd => List.replicate 3 true
  resetActiveLevel := false

/-- The keypad at its defaults: the configuration of `State.reset` (DESIGN CHOICE, log 3). -/
def keypad : Config := standard .kpd 0

/-- The keyboard at its defaults, with no direct input. -/
def keyboard : Config := standard .kbd 0

end Config

end Sys2Proof
end

