-- ==== Sys2Proof/Syntax.lean ====
section
/-! DEFINITION. The events of R40, one constructor for each row of the opcode table, with the operand
fields of R41 to R43; and the closed list of refusal reasons (R98). -/

namespace Sys2Proof

/-- One event term (R40, R49). -/
inductive Instr where
  /-- `RESET` (R84). -/
  | reset
  /-- `WR_ROW i, L` (R53). -/
  | wrRow (i : Idx) (l : Level)
  /-- `WR_WDOG L` (R60). -/
  | wrWdog (l : Level)
  /-- `WR_HCLK L` (R73). -/
  | wrHclk (l : Level)
  /-- `WR_HDATA L` (R74). -/
  | wrHdata (l : Level)
  /-- `WR_KDATA L` (R88), KPD only. -/
  | wrKdata (l : Level)
  /-- `RD_COLS` (R54). -/
  | rdCols
  /-- `RD_HDATA` (R75). -/
  | rdHdata
  /-- `RD_DIRECT k` (R55). -/
  | rdDirect (k : Idx)
  /-- `RD_KCLK` (R89), KPD only. -/
  | rdKclk
  /-- `RD_KDATA` (R90), KPD only. -/
  | rdKdata
  /-- `IN_HDATA L` (R76). -/
  | inHdata (l : Level)
  /-- `IN_KCLK L` (R91), KPD only. -/
  | inKclk (l : Level)
  /-- `IN_KDATA L` (R92), KPD only. -/
  | inKdata (l : Level)
  /-- `ENV_KEYROW r, M` (R56). -/
  | envKeyrow (r : Idx) (m : Mask)
  /-- `ENV_DIRECT k, L` (R57). -/
  | envDirect (k : Idx) (l : Level)
  /-- `SYNC` (R78). -/
  | sync
  /-- `ADVANCE d` (R69). -/
  | advance (d : Delta)
deriving DecidableEq, Repr

/-- Why an event is refused: the closed list of R98. -/
inductive RefusalReason where
  /-- `BAD_OP`: the operation is not assigned (R45). -/
  | badOp
  /-- `RESERVED_BITS`: a bit outside the event's fields is set (R44). -/
  | reservedBits
  /-- `VARIANT`: a keypad-only event on KBD (R46). -/
  | variant
  /-- `RANGE`: an index or a key mask out of range (R47, R48), or a read of a physical pin with no
  read role (R83). -/
  | range
  /-- `NOT_STARTED`: an event before the first `RESET` (R85). -/
  | notStarted
  /-- `RESTART`: `RESET` after device start (R84). -/
  | restart
deriving DecidableEq, Repr

end Sys2Proof
end

