-- ==== Sys2Proof/WellFormed.lean ====
section
/-! DEFINITION. When an event is one the configured block has: the variant gate (R46), the index ranges
(R47) and the row-mask width (R48). -/

namespace Sys2Proof

/-- The event exists only on KPD (R40, R46). -/
def Instr.kpdOnly : Instr → Bool
  | .reset => false
  | .wrRow _ _ => false
  | .wrWdog _ => false
  | .wrHclk _ => false
  | .wrHdata _ => false
  | .wrKdata _ => true
  | .rdCols => false
  | .rdHdata => false
  | .rdDirect _ => false
  | .rdKclk => true
  | .rdKdata => true
  | .inHdata _ => false
  | .inKclk _ => true
  | .inKdata _ => true
  | .envKeyrow _ _ => false
  | .envDirect _ _ => false
  | .sync => false
  | .advance _ => false

/-- The operands lie in the ranges of R47 and R48. -/
def Instr.inRange (c : Config) : Instr → Bool
  | .reset => true
  | .wrRow i _ => decide (i.toNat < c.rows)
  | .wrWdog _ => true
  | .wrHclk _ => true
  | .wrHdata _ => true
  | .wrKdata _ => true
  | .rdCols => true
  | .rdHdata => true
  | .rdDirect k => decide (k.toNat < c.nd)
  | .rdKclk => true
  | .rdKdata => true
  | .inHdata _ => true
  | .inKclk _ => true
  | .inKdata _ => true
  | .envKeyrow r m => decide (r.toNat < c.rows) && decide (m.toNat < 2 ^ c.cols)
  | .envDirect k _ => decide (k.toNat < c.nd)
  | .sync => true
  | .advance _ => true

/-- The configured block has this event: its variant has it, and its operands are in range. -/
def Instr.wellFormed (c : Config) (i : Instr) : Bool :=
  (decide (c.variant = .kpd) || !i.kpdOnly) && i.inRange c

end Sys2Proof
end

