-- ==== Sys2Proof/Decode.lean ====
section
/-! DEFINITION. The decoder of R49 with its opcode table (R40, R44), the encoder of R50, and the stored
form of an event word (R32). -/

namespace Sys2Proof

/-- The mnemonics of R40. -/
inductive Opcode where
  | reset
  | wrRow
  | wrWdog
  | wrHclk
  | wrHdata
  | wrKdata
  | rdCols
  | rdHdata
  | rdDirect
  | rdKclk
  | rdKdata
  | inHdata
  | inKclk
  | inKdata
  | envKeyrow
  | envDirect
  | sync
  | advance
deriving DecidableEq, Repr

/-- One row of the opcode table: the `OP` byte, the mask of the bits that must equal the match word
(R44), and whether the row is keypad-only. -/
structure OpRow where
  op : BitVec 8
  mask : Word
  kpdOnly : Bool
  opcode : Opcode
deriving DecidableEq, Repr

/-- The row's match word: the operation in bits 31 to 24, every other bit zero. -/
def OpRow.matchWord (r : OpRow) : Word := r.op ++ 0#24

/-- The opcode table, row by row as `opcode_table.json` and R40 have it. -/
def opcodeTable : List OpRow :=
  [ ⟨0x00#8, 0xFFFFFFFF#32, false, .reset⟩,
    ⟨0x01#8, 0xFF00FFFE#32, false, .wrRow⟩,
    ⟨0x02#8, 0xFFFFFFFE#32, false, .wrWdog⟩,
    ⟨0x03#8, 0xFFFFFFFE#32, false, .wrHclk⟩,
    ⟨0x04#8, 0xFFFFFFFE#32, false, .wrHdata⟩,
    ⟨0x05#8, 0xFFFFFFFE#32, true, .wrKdata⟩,
    ⟨0x10#8, 0xFFFFFFFF#32, false, .rdCols⟩,
    ⟨0x11#8, 0xFFFFFFFF#32, false, .rdHdata⟩,
    ⟨0x12#8, 0xFF00FFFF#32, false, .rdDirect⟩,
    ⟨0x13#8, 0xFFFFFFFF#32, true, .rdKclk⟩,
    ⟨0x14#8, 0xFFFFFFFF#32, true, .rdKdata⟩,
    ⟨0x20#8, 0xFFFFFFFE#32, false, .inHdata⟩,
    ⟨0x21#8, 0xFFFFFFFE#32, true, .inKclk⟩,
    ⟨0x22#8, 0xFFFFFFFE#32, true, .inKdata⟩,
    ⟨0x30#8, 0xFF00FE00#32, false, .envKeyrow⟩,
    ⟨0x31#8, 0xFF00FFFE#32, false, .envDirect⟩,
    ⟨0x40#8, 0xFFFFFFFF#32, false, .sync⟩,
    ⟨0x41#8, 0xFF000000#32, false, .advance⟩ ]

/-- The table row of an operation, if it is assigned (R40, R45). -/
def lookupOp (op : BitVec 8) : Option OpRow := opcodeTable.find? (fun r => decide (r.op = op))

/-- `OP = w[31:24]` (R39). -/
def opField (w : Word) : BitVec 8 := w.extractLsb' 24 8

/-- `IDX = w[23:16]` (R41). -/
def idxField (w : Word) : Idx := w.extractLsb' 16 8

/-- `L = DATA[0]` (R42). -/
def levelField (w : Word) : Level := w.getLsbD 0

/-- `M = DATA[8:0]` (R42). -/
def maskField (w : Word) : Mask := w.extractLsb' 0 9

/-- `DELTA = w[23:0]` (R43). -/
def deltaField (w : Word) : Delta := w.extractLsb' 0 24

/-- The event term of a word whose row is known (the last case split of R49). -/
def buildEvent (o : Opcode) (w : Word) : Instr :=
  match o with
  | .reset => .reset
  | .wrRow => .wrRow (idxField w) (levelField w)
  | .wrWdog => .wrWdog (levelField w)
  | .wrHclk => .wrHclk (levelField w)
  | .wrHdata => .wrHdata (levelField w)
  | .wrKdata => .wrKdata (levelField w)
  | .rdCols => .rdCols
  | .rdHdata => .rdHdata
  | .rdDirect => .rdDirect (idxField w)
  | .rdKclk => .rdKclk
  | .rdKdata => .rdKdata
  | .inHdata => .inHdata (levelField w)
  | .inKclk => .inKclk (levelField w)
  | .inKdata => .inKdata (levelField w)
  | .envKeyrow => .envKeyrow (idxField w) (maskField w)
  | .envDirect => .envDirect (idxField w) (levelField w)
  | .sync => .sync
  | .advance => .advance (deltaField w)

/-- The part of decoding that needs no configuration: the operation and the reserved bits (R44, R45).
-/
def parseWord (w : Word) : Except RefusalReason Instr :=
  match lookupOp (opField w) with
  | none => .error .badOp
  | some r => if w &&& r.mask = r.matchWord then .ok (buildEvent r.opcode w) else .error .reservedBits

/-- The variant gate of R46. -/
def variantCheck (c : Config) : Option RefusalReason :=
  match c.variant with
  | .kbd => some .variant
  | .kpd => none

/-- A row index is below `R` (R47). -/
def rowCheck (c : Config) (i : Idx) : Option RefusalReason :=
  if c.rows ≤ i.toNat then some .range else none

/-- A direct-input index is below `ND` (R47). -/
def directCheck (c : Config) (k : Idx) : Option RefusalReason :=
  if c.nd ≤ k.toNat then some .range else none

/-- A key-state row: the index is below `R` (R47), and then the mask is below `2^W` (R48). -/
def keyrowCheck (c : Config) (r : Idx) (m : Mask) : Option RefusalReason :=
  if c.rows ≤ r.toNat then some .range
  else if 2 ^ c.cols ≤ m.toNat then some .range
  else none

/-- The part of decoding that needs the configuration: VARIANT, then RANGE (R46 to R49). `none` is an
event the configured block has. -/
def admission (c : Config) (i : Instr) : Option RefusalReason :=
  match i with
  | .reset => none
  | .wrRow i _ => rowCheck c i
  | .wrWdog _ => none
  | .wrHclk _ => none
  | .wrHdata _ => none
  | .wrKdata _ => variantCheck c
  | .rdCols => none
  | .rdHdata => none
  | .rdDirect k => directCheck c k
  | .rdKclk => variantCheck c
  | .rdKdata => variantCheck c
  | .inHdata _ => none
  | .inKclk _ => variantCheck c
  | .inKdata _ => variantCheck c
  | .envKeyrow r m => keyrowCheck c r m
  | .envDirect k _ => directCheck c k
  | .sync => none
  | .advance _ => none

/-- The decoder of R49, total on every 32-bit word: an event term or a refusal reason. -/
def decode (c : Config) (w : Word) : Except RefusalReason Instr :=
  match parseWord w with
  | .error r => .error r
  | .ok i =>
    match admission c i with
    | some r => .error r
    | none => .ok i

/-- An index in bits 23 to 16. -/
def idxBits (i : Idx) : Word := i.setWidth 32 <<< 16

/-- A level in bit 0. -/
def levelBit (l : Level) : Word := (BitVec.ofBool l).setWidth 32

/-- The word of each event, form by form as R50 writes it. -/
def encode (i : Instr) : Word :=
  match i with
  | .reset => 0x00000000#32
  | .wrRow i l => 0x01000000#32 ||| idxBits i ||| levelBit l
  | .wrWdog l => 0x02000000#32 ||| levelBit l
  | .wrHclk l => 0x03000000#32 ||| levelBit l
  | .wrHdata l => 0x04000000#32 ||| levelBit l
  | .wrKdata l => 0x05000000#32 ||| levelBit l
  | .rdCols => 0x10000000#32
  | .rdHdata => 0x11000000#32
  | .rdDirect k => 0x12000000#32 ||| idxBits k
  | .rdKclk => 0x13000000#32
  | .rdKdata => 0x14000000#32
  | .inHdata l => 0x20000000#32 ||| levelBit l
  | .inKclk l => 0x21000000#32 ||| levelBit l
  | .inKdata l => 0x22000000#32 ||| levelBit l
  | .envKeyrow r m => 0x30000000#32 ||| idxBits r ||| m.setWidth 32
  | .envDirect k l => 0x31000000#32 ||| idxBits k ||| levelBit l
  | .sync => 0x40000000#32
  | .advance d => 0x41000000#32 ||| d.setWidth 32

/-- An event word stored as bytes, most-significant byte first (R32). -/
def wordBytes (w : Word) : List Byte :=
  [w.extractLsb' 24 8, w.extractLsb' 16 8, w.extractLsb' 8 8, w.extractLsb' 0 8]

/-- The event word stored in four bytes, the first of them the most significant (R32). -/
def bytesWord (b3 b2 b1 b0 : Byte) : Word := b3 ++ b2 ++ b1 ++ b0

/-- Why stored bytes give no event: fewer than the four bytes of a word stand there (R51), or the word
is refused (log 5). -/
inductive ByteReject where
  | truncated
  | event (r : RefusalReason)
deriving DecidableEq, Repr

/-- Reads one event from stored bytes, and gives the bytes after its word. -/
def decodeBytes : List Byte → Except ByteReject (Instr × List Byte)
  | b3 :: b2 :: b1 :: b0 :: rest =>
    match parseWord (bytesWord b3 b2 b1 b0) with
    | .ok i => .ok (i, rest)
    | .error r => .error (.event r)
  | _ => .error .truncated

/-- The word whose low `nbits` bits are those of `w`, every bit above them zero. -/
def tableWord (nbits w : Nat) : Word := BitVec.ofNat 32 (w % 2 ^ nbits)

/-- The event this decoder reads from the bits `w` of an opcode-table row: the word is stored as bytes
(R32) and read back. The opcode table numbers the bits of the event word itself. No word is longer than
32 bits (R51). -/
def decodeTableWord (nbits w : Nat) : Option Instr :=
  if nbits ≤ 32 then
    match decodeBytes (wordBytes (tableWord nbits w)) with
    | .ok (i, _) => some i
    | .error _ => none
  else none

end Sys2Proof
end

