-- ==== Sys2Proof/Machine/State.lean ====
section
/-! DEFINITION. The state of one block instance (10_state.md), plain data, with the reasons a step can
stop, and the states before and after device start. -/

namespace Sys2Proof.Machine

/-- Why the machine stops. -/
inductive Fault where
  /-- Raised by `step` alone: the event sequence has run out, so there is no next event (R6 gives a
  finite sequence no step past its end). Safe: the model stops (log 1). -/
  | endOfEvents
deriving DecidableEq, Repr

/-- Why the model has no meaning for an instruction. -/
inductive Refusal where
  /-- Raised by `exec` for an instruction that has no meaning yet. Safe: the model stops. -/
  | notModelled (mnemonic : String)
deriving DecidableEq, Repr

/-- The lines whose inbound changes wait in `syncQ` (R22). -/
inductive Line where
  | hdata
  | kclk
  | kdata
deriving DecidableEq, Repr

/-- The states of the watchdog (R19). -/
inductive WdState where
  | armed
  | countingLong
  | resetAsserted
deriving DecidableEq, Repr

/-- The lines whose changes are shown to the outside (R25): `HCLK_OUT`, `HDATA_OUT`, `KDATA_OUT` and
`RESET_OUT`. -/
inductive OutLine where
  | hclk
  | hdata
  | kdata
  | reset
deriving DecidableEq, Repr

/-- The read events, which the value of a `READ` observation names (R25). -/
inductive ReadOp where
  | cols
  | hdata
  | direct
  | kclk
  | kdata
deriving DecidableEq, Repr

/-- Kind and value of an observation (R25). A read's value is `(op, idx, result)`; a one-bit result is
zero-extended (log 10). -/
inductive ObsKind where
  | out (line : OutLine) (level : Level)
  | read (op : ReadOp) (idx : Idx) (result : Mask)
deriving DecidableEq, Repr

/-- One observation: its time, kind and value (R25). -/
structure Obs where
  time : Nat
  kind : ObsKind
deriving DecidableEq, Repr

/-- The state of one block instance. -/
structure State where
  /-- The configuration of R5. No event changes it (log 3). -/
  cfg : Config
  /-- The event words still to come, the next one first (R6; log 1). -/
  events : List Word
  /-- The position in the event sequence (R10). -/
  pos : Nat
  /-- `rowDrive` (R11). -/
  rowDrive : Mask
  /-- `keyState` (R12). -/
  keyState : List Mask
  /-- `direct` (R13). -/
  direct : List Level
  /-- `clockOut` (R14). -/
  clockOut : Level
  /-- `dataOut` (R15). -/
  dataOut : Level
  /-- `dataIn` (R16). -/
  dataIn : Level
  /-- `kClockIn` (R17), KPD only (log 7). -/
  kClockIn : Level
  /-- `kDataIn` (R17), KPD only (log 7). -/
  kDataIn : Level
  /-- `kDataOut` (R17), KPD only (log 7). -/
  kDataOut : Level
  /-- `wdLine` (R18). -/
  wdLine : Level
  /-- `wdState` (R19). -/
  wdState : WdState
  /-- `resetAsserted` (R19): the reset line toward the microcontroller is asserted. -/
  resetAsserted : Bool
  /-- `longDeadline` (R20). -/
  longDeadline : Option Nat
  /-- `shortDeadline` (R20). -/
  shortDeadline : Option Nat
  /-- `syncQ` (R22), oldest entry first. -/
  syncQ : List (Line × Level)
  /-- `now` (R23): the time in microseconds, an unbounded natural number that never wraps (R7). -/
  now : Nat
  /-- `started` (R24). -/
  started : Bool
  /-- `trace` (R25), oldest observation first. -/
  trace : List Obs
  /-- `refused` (R26). -/
  refused : Bool
deriving DecidableEq, Repr

/-- What one event answers (R85): it is performed, it is performed and returns a value to the firmware,
or it is refused for a reason. -/
inductive Answer where
  | done (s : State)
  | value (v : Mask) (s : State)
  | refused (r : RefusalReason)
deriving DecidableEq, Repr

namespace State

/-- The state right after device start, field by field as R27 has it, with no further event placed. The
position counts the one event `RESET` (log 2). -/
def afterStart (c : Config) : State where
  cfg := c
  events := []
  pos := 1
  rowDrive := maskOf c.rows
  keyState := c.keys0
  direct := c.direct0
  clockOut := true
  dataOut := true
  dataIn := true
  kClockIn := true
  kDataIn := true
  kDataOut := true
  wdLine := true
  wdState := .armed
  resetAsserted := false
  longDeadline := none
  shortDeadline := none
  syncQ := []
  now := 0
  started := true
  trace := []
  refused := false

/-- The pre-start state (R27, R106): not started, nothing refused. The spec calls every other field
irrelevant there; the model gives them the idle values (DESIGN CHOICE, log 2). -/
def preStart (c : Config) : State := { afterStart c with pos := 0, started := false }

/-- The machine right after reset: device start of the keypad at its default configuration (log 3). -/
def reset : State := afterStart Config.keypad

end State

end Sys2Proof.Machine
end

