-- ==== Sys2Proof/Machine/Flags.lean ====
section
/-! DEFINITION. The block has no condition flags (R10), and every event rule writes none. What stands
here is what the rules compute from levels in a flag's place: edges, level changes and the derived
status `timeoutPending`. -/

namespace Sys2Proof.Machine

/-- A falling edge: the recorded level 1 becomes 0 (R60, glossary). -/
def fallingEdge (old new : Level) : Bool := old && !new

/-- An actual change of level, which change detection lets through (R73, R74, R77, R88). -/
def levelChanges (old new : Level) : Bool := old != new

/-- `timeoutPending` (R19): a long-timer expiry is pending. Not stored. -/
def State.timeoutPending (s : State) : Bool := decide (s.wdState = .countingLong)

end Sys2Proof.Machine
end

