-- ==== Sys2Proof/Machine/Operands.lean ====
section
/-! DEFINITION. The operand forms: the state a pin role or an index names, read and written. Bounds are
checked before (R47, R48; Decode.lean). A row or an input that the lists do not hold reads as released,
since a line no one drives is 1 (R9); no state a run reaches has such a one (log 8). -/

namespace Sys2Proof.Machine

/-- A level as an unsigned value of mask width (`zext`, R7). -/
def levelValue (l : Level) : Mask := (BitVec.ofBool l).setWidth 9

/-- `v[i] <- l` (R7). -/
def setMaskBit (v : Mask) (i : Nat) (l : Level) : Mask :=
  if l then v ||| (1#9 <<< i) else v &&& ~~~(1#9 <<< i)

/-- A level presented to the firmware inverted or as it is (R55, R89, R90). -/
def presented (invert : Bool) (l : Level) : Level := if invert then !l else l

namespace State

/-- `S.keyState[i]`. -/
def keyRow (s : State) (i : Nat) : Mask := s.keyState.getD i (maskOf s.cfg.cols)

/-- `S.direct[k]`. -/
def directLevel (s : State) (k : Nat) : Level := s.direct.getD k true

/-- `S.rowDrive[i] <- l`. -/
def setRowDrive (i : Nat) (l : Level) (s : State) : State :=
  { s with rowDrive := setMaskBit s.rowDrive i l }

/-- `S.keyState[r] <- m`. -/
def setKeyRow (r : Nat) (m : Mask) (s : State) : State := { s with keyState := s.keyState.set r m }

/-- `S.direct[k] <- l`. -/
def setDirect (k : Nat) (l : Level) (s : State) : State := { s with direct := s.direct.set k l }

end State

end Sys2Proof.Machine
end

