-- ==== Sys2Proof/Machine/Ops.lean ====
section
/-! DEFINITION. The primitives of R8, the checks every event passes first (R85), and the entry to and
the return from the watchdog reset (R65, R66, R100, R101), which are the block's counterpart of taking
an exception and returning from one. The block has no memory, so there is no memory operation (R28). -/

namespace Sys2Proof.Machine

namespace State

/-- `emit(kind, value)` (R8): the observation is stamped with the current time. -/
def emit (k : ObsKind) (s : State) : State := { s with trace := s.trace ++ [⟨s.now, k⟩] }

/-- What a refused event leaves (R26, R97): the mark is set, every other field stays. -/
def refuse (s : State) : State := { s with refused := true }

/-- `defer(line, level)` (R8, R22). -/
def defer (line : Line) (l : Level) (s : State) : State := { s with syncQ := s.syncQ ++ [(line, l)] }

/-- `S.now <- t`. -/
def setNow (t : Nat) (s : State) : State := { s with now := t }

/-- `longExpire(d)` (R65): reset assertion, the counterpart of trap entry (R100). The long timer is
disarmed, the reset line asserted and shown with the time `d`, and the short timer armed. -/
def longExpire (d : Nat) (s : State) : State :=
  { s with
    now := d
    longDeadline := none
    resetAsserted := true
    trace := s.trace ++ [⟨d, .out .reset true⟩]
    shortDeadline := some (d + s.cfg.tShort)
    wdState := .resetAsserted }

/-- `shortExpire(d)` (R66): reset release, the counterpart of trap return (R101). The short timer is
disarmed, and the reset line released and shown with the time `d`. -/
def shortExpire (d : Nat) (s : State) : State :=
  { s with
    now := d
    shortDeadline := none
    resetAsserted := false
    trace := s.trace ++ [⟨d, .out .reset false⟩]
    wdState := .armed }

end State

/-- The checks an event other than `RESET` passes before its rule is performed (R49, R85): the reason
decoding finds, then `NOT_STARTED`. -/
def guarded (check : Option RefusalReason) (perform : State → Answer) (s : State) : Answer :=
  match check with
  | some r => .refused r
  | none => if s.started then perform s else .refused .notStarted

/-- A read event: it shows the value in the trace, changes nothing else, and returns the value (R35). -/
def readEvent (op : ReadOp) (idx : Idx) (v : Mask) (s : State) : Answer :=
  .value v (s.emit (.read op idx v))

/-- The state an answer leaves, from the state the event was applied to. -/
def Answer.state (s : State) (a : Answer) : State :=
  match a with
  | .done t => t
  | .value _ t => t
  | .refused _ => s.refuse

/-- The outcome of an answer. A refused event is no stop of the machine: the state is marked and the
run goes on (R97; log 4). -/
def settle (s : State) (a : Answer) : Host.Outcome State Fault Refusal := .next (a.state s)

end Sys2Proof.Machine
end

