-- ==== Sys2Proof/Machine/Control.lean ====
section
/-! DEFINITION. The control event of 43_core.md: device start. -/

namespace Sys2Proof.Machine

/-- The assignments of R84. The keypad link's fields are set on KPD only. -/
def State.startDevice (s : State) : State :=
  { s with
    rowDrive := maskOf s.cfg.rows
    keyState := s.cfg.keys0
    direct := s.cfg.direct0
    clockOut := true
    dataOut := true
    dataIn := true
    kClockIn := if s.cfg.variant = .kpd then true else s.kClockIn
    kDataIn := if s.cfg.variant = .kpd then true else s.kDataIn
    kDataOut := if s.cfg.variant = .kpd then true else s.kDataOut
    wdLine := true
    wdState := .armed
    resetAsserted := false
    longDeadline := none
    shortDeadline := none
    syncQ := []
    now := 0
    trace := []
    started := true }

/-- `RESET` (R84): device start, refused once the device has started. -/
def answerReset (s : State) : Answer := if s.started then .refused .restart else .done s.startDevice

/-- The meaning of `RESET` (R84). -/
def execReset (s : State) : Host.Outcome State Fault Refusal := settle s (answerReset s)

end Sys2Proof.Machine
end

