-- ==== Sys2Proof/Machine/HostLink.lean ====
section
/-! DEFINITION. The Host Link events of 42_hostlink.md, and the synchronization point. -/

namespace Sys2Proof.Machine

namespace State

/-- `setClockOut(level)` (R73): change-detected. -/
def driveClock (l : Level) (s : State) : State :=
  if levelChanges s.clockOut l then ({ s with clockOut := l } : State).emit (.out .hclk l) else s

/-- `setDataOut(level)` (R74): change-detected. -/
def driveData (l : Level) (s : State) : State :=
  if levelChanges s.dataOut l then ({ s with dataOut := l } : State).emit (.out .hdata l) else s

/-- `applyEntry(line, L)` (R77): change-detected, and it notifies nobody. The keypad's lines are applied
on KPD only (log 7). -/
def applyEntry (s : State) (e : Line × Level) : State :=
  match e.1 with
  | .hdata => if levelChanges s.dataIn e.2 then { s with dataIn := e.2 } else s
  | .kclk =>
    if s.cfg.variant = .kpd ∧ levelChanges s.kClockIn e.2 then { s with kClockIn := e.2 } else s
  | .kdata =>
    if s.cfg.variant = .kpd ∧ levelChanges s.kDataIn e.2 then { s with kDataIn := e.2 } else s

/-- The pseudocode of R78: every entry, oldest first, then the queue is empty. -/
def synchronize (s : State) : State := { s.syncQ.foldl applyEntry s with syncQ := [] }

end State

/-- `WR_HCLK L` (R73). -/
def answerWrHclk (l : Level) (s : State) : Answer := guarded none (fun s => .done (s.driveClock l)) s

/-- The meaning of `WR_HCLK` (R73). -/
def execWrHclk (l : Level) (s : State) : Host.Outcome State Fault Refusal :=
  settle s (answerWrHclk l s)

/-- `WR_HDATA L` (R74). -/
def answerWrHdata (l : Level) (s : State) : Answer := guarded none (fun s => .done (s.driveData l)) s

/-- The meaning of `WR_HDATA` (R74). -/
def execWrHdata (l : Level) (s : State) : Host.Outcome State Fault Refusal :=
  settle s (answerWrHdata l s)

/-- `RD_HDATA` (R75): the host's level inverted. -/
def answerRdHdata (s : State) : Answer :=
  guarded none (fun s => readEvent .hdata 0 (levelValue (!s.dataIn)) s) s

/-- The meaning of `RD_HDATA` (R75). -/
def execRdHdata (s : State) : Host.Outcome State Fault Refusal := settle s (answerRdHdata s)

/-- `IN_HDATA L` (R76). -/
def answerInHdata (l : Level) (s : State) : Answer := guarded none (fun s => .done (s.defer .hdata l)) s

/-- The meaning of `IN_HDATA` (R76). -/
def execInHdata (l : Level) (s : State) : Host.Outcome State Fault Refusal :=
  settle s (answerInHdata l s)

/-- `SYNC` (R78). -/
def answerSync (s : State) : Answer := guarded none (fun s => .done s.synchronize) s

/-- The meaning of `SYNC` (R78). -/
def execSync (s : State) : Host.Outcome State Fault Refusal := settle s (answerSync s)

end Sys2Proof.Machine
end

