-- ==== Sys2Proof/Machine/KeypadChain.lean ====
section
/-! DEFINITION. The Keypad Chain Extension events of 44_keypad_chain.md, on KPD only (R46). -/

namespace Sys2Proof.Machine

/-- The level driven toward the chained keyboard (R88): change-detected. -/
def State.driveKeyboardData (l : Level) (s : State) : State :=
  if levelChanges s.kDataOut l then ({ s with kDataOut := l } : State).emit (.out .kdata l) else s

/-- `WR_KDATA L` (R88). -/
def answerWrKdata (l : Level) (s : State) : Answer :=
  guarded (variantCheck s.cfg) (fun s => .done (s.driveKeyboardData l)) s

/-- The meaning of `WR_KDATA` (R88). -/
def execWrKdata (l : Level) (s : State) : Host.Outcome State Fault Refusal :=
  settle s (answerWrKdata l s)

/-- `RD_KCLK` (R89). -/
def answerRdKclk (s : State) : Answer :=
  guarded (variantCheck s.cfg)
    (fun s => readEvent .kclk 0 (levelValue (presented s.cfg.kinInvert s.kClockIn)) s) s

/-- The meaning of `RD_KCLK` (R89). -/
def execRdKclk (s : State) : Host.Outcome State Fault Refusal := settle s (answerRdKclk s)

/-- `RD_KDATA` (R90). -/
def answerRdKdata (s : State) : Answer :=
  guarded (variantCheck s.cfg)
    (fun s => readEvent .kdata 0 (levelValue (presented s.cfg.kinInvert s.kDataIn)) s) s

/-- The meaning of `RD_KDATA` (R90). -/
def execRdKdata (s : State) : Host.Outcome State Fault Refusal := settle s (answerRdKdata s)

/-- `IN_KCLK L` (R91). -/
def answerInKclk (l : Level) (s : State) : Answer :=
  guarded (variantCheck s.cfg) (fun s => .done (s.defer .kclk l)) s

/-- The meaning of `IN_KCLK` (R91). -/
def execInKclk (l : Level) (s : State) : Host.Outcome State Fault Refusal :=
  settle s (answerInKclk l s)

/-- `IN_KDATA L` (R92). -/
def answerInKdata (l : Level) (s : State) : Answer :=
  guarded (variantCheck s.cfg) (fun s => .done (s.defer .kdata l)) s

/-- The meaning of `IN_KDATA` (R92). -/
def execInKdata (l : Level) (s : State) : Host.Outcome State Fault Refusal :=
  settle s (answerInKdata l s)

end Sys2Proof.Machine
end

