-- ==== Sys2Proof/Machine/Matrix.lean ====
section
/-! DEFINITION. The Matrix/Input Multiplexer events of 40_matrix.md. -/

namespace Sys2Proof.Machine

/-- `readColumns` (R52): the AND of the key-state rows that are driven, inverted. -/
def readColumns (rows cols : Nat) (rowDrive : Mask) (keyRow : Nat → Mask) : Mask :=
  ((List.range rows).foldl (fun acc i => if rowDrive.getLsbD i then acc else acc &&& keyRow i)
    (maskOf cols)) ^^^ maskOf cols

/-- The column lines as the matrix shows them now (R52, R54). -/
def State.columns (s : State) : Mask := readColumns s.cfg.rows s.cfg.cols s.rowDrive s.keyRow

/-- `WR_ROW i, L` (R53). -/
def answerWrRow (i : Idx) (l : Level) (s : State) : Answer :=
  guarded (rowCheck s.cfg i) (fun s => .done (s.setRowDrive i.toNat l)) s

/-- The meaning of `WR_ROW` (R53). -/
def execWrRow (i : Idx) (l : Level) (s : State) : Host.Outcome State Fault Refusal :=
  settle s (answerWrRow i l s)

/-- `RD_COLS` (R54). -/
def answerRdCols (s : State) : Answer := guarded none (fun s => readEvent .cols 0 s.columns s) s

/-- The meaning of `RD_COLS` (R54). -/
def execRdCols (s : State) : Host.Outcome State Fault Refusal := settle s (answerRdCols s)

/-- `RD_DIRECT k` (R55). -/
def answerRdDirect (k : Idx) (s : State) : Answer :=
  guarded (directCheck s.cfg k)
    (fun s => readEvent .direct k (levelValue (presented s.cfg.directInvert (s.directLevel k.toNat))) s)
    s

/-- The meaning of `RD_DIRECT` (R55). -/
def execRdDirect (k : Idx) (s : State) : Host.Outcome State Fault Refusal :=
  settle s (answerRdDirect k s)

/-- `ENV_KEYROW r, M` (R56). -/
def answerEnvKeyrow (r : Idx) (m : Mask) (s : State) : Answer :=
  guarded (keyrowCheck s.cfg r m) (fun s => .done (s.setKeyRow r.toNat m)) s

/-- The meaning of `ENV_KEYROW` (R56). -/
def execEnvKeyrow (r : Idx) (m : Mask) (s : State) : Host.Outcome State Fault Refusal :=
  settle s (answerEnvKeyrow r m s)

/-- `ENV_DIRECT k, L` (R57). -/
def answerEnvDirect (k : Idx) (l : Level) (s : State) : Answer :=
  guarded (directCheck s.cfg k) (fun s => .done (s.setDirect k.toNat l)) s

/-- The meaning of `ENV_DIRECT` (R57). -/
def execEnvDirect (k : Idx) (l : Level) (s : State) : Host.Outcome State Fault Refusal :=
  settle s (answerEnvDirect k l s)

end Sys2Proof.Machine
end

