-- ==== Sys2Proof/Machine/Watchdog.lean ====
section
/-! DEFINITION. The Watchdog Supervisor events of 41_watchdog.md. -/

namespace Sys2Proof.Machine

namespace State

/-- `arm(long, t)` (R8): any earlier deadline is discarded. -/
def armLong (t : Nat) (s : State) : State := { s with longDeadline := some t }

/-- `fallingArmed()` (R61): the long timer is armed and counting begins. -/
def fallingArmed (s : State) : State :=
  { s.armLong (s.now + s.cfg.tLong) with wdState := .countingLong }

/-- `fallingCounting()` (R62): the long timer is retriggered. -/
def fallingCounting (s : State) : State := s.armLong (s.now + s.cfg.tLong)

/-- What a falling edge does in each watchdog state (R61 to R63). -/
def onFallingEdge (s : State) : State :=
  match s.wdState with
  | .armed => s.fallingArmed
  | .countingLong => s.fallingCounting
  | .resetAsserted => s

/-- The pseudocode of R60: the level is recorded in every state, and a falling edge acts (R64: a rising
edge does nothing more). -/
def writeWdog (l : Level) (s : State) : State :=
  if fallingEdge s.wdLine l then onFallingEdge { s with wdLine := l } else { s with wdLine := l }

/-- The pending deadline the firing procedure looks at: the long one first (R67). -/
def pendingDeadline (s : State) : Option Nat :=
  match s.longDeadline with
  | some d => some d
  | none => s.shortDeadline

/-- The expiry that belongs to the pending deadline `d` (R67). -/
def expire (d : Nat) (s : State) : State :=
  if s.longDeadline = some d then s.longExpire d else s.shortExpire d

/-- One pass of the loop of R67 at a time, at most `fuel` passes. -/
def fireDueLoop (fuel : Nat) (bound : Nat) (strict : Bool) (s : State) : State :=
  match fuel with
  | 0 => s
  | n + 1 =>
    match s.pendingDeadline with
    | none => s
    | some d =>
      if (if strict then d < bound else d ≤ bound) then fireDueLoop n bound strict (s.expire d) else s

/-- `fireDue(bound, strict)` (R67). A long expiry arms the short timer and a short expiry arms none, so
the loop makes at most two firing passes from any state (log 11). -/
def fireDue (bound : Nat) (strict : Bool) (s : State) : State := fireDueLoop 2 bound strict s

/-- The pseudocode of R69, for a passage of `d` microseconds. -/
def advanceBy (d : Nat) (s : State) : State :=
  match s.cfg.tieOrder with
  | .timerFirst => (s.fireDue (s.now + d) false).setNow (s.now + d)
  | .eventFirst =>
    let s := s.fireDue s.now false
    (s.fireDue (s.now + d) true).setNow (s.now + d)

end State

/-- `WR_WDOG L` (R60). -/
def answerWrWdog (l : Level) (s : State) : Answer := guarded none (fun s => .done (s.writeWdog l)) s

/-- The meaning of `WR_WDOG` (R60 to R64). -/
def execWrWdog (l : Level) (s : State) : Host.Outcome State Fault Refusal :=
  settle s (answerWrWdog l s)

/-- `ADVANCE d` (R69). -/
def answerAdvance (d : Delta) (s : State) : Answer :=
  guarded none (fun s => .done (s.advanceBy d.toNat)) s

/-- The meaning of `ADVANCE` (R65 to R69). -/
def execAdvance (d : Delta) (s : State) : Host.Outcome State Fault Refusal :=
  settle s (answerAdvance d s)

end Sys2Proof.Machine
end

