-- ==== Sys2Proof/Machine/Dispatch.lean ====
section
/-! DEFINITION. The meaning of every event, one arm for each constructor of `Instr`. -/

namespace Sys2Proof.Machine

def exec (i : Instr) (s : State) : Host.Outcome State Fault Refusal :=
  match i with
  | .reset => Sys2Proof.Machine.execReset s
  | .wrRow r l => Sys2Proof.Machine.execWrRow r l s
  | .wrWdog l => Sys2Proof.Machine.execWrWdog l s
  | .wrHclk l => Sys2Proof.Machine.execWrHclk l s
  | .wrHdata l => Sys2Proof.Machine.execWrHdata l s
  | .wrKdata l => Sys2Proof.Machine.execWrKdata l s
  | .rdCols => Sys2Proof.Machine.execRdCols s
  | .rdHdata => Sys2Proof.Machine.execRdHdata s
  | .rdDirect k => Sys2Proof.Machine.execRdDirect k s
  | .rdKclk => Sys2Proof.Machine.execRdKclk s
  | .rdKdata => Sys2Proof.Machine.execRdKdata s
  | .inHdata l => Sys2Proof.Machine.execInHdata l s
  | .inKclk l => Sys2Proof.Machine.execInKclk l s
  | .inKdata l => Sys2Proof.Machine.execInKdata l s
  | .envKeyrow r m => Sys2Proof.Machine.execEnvKeyrow r m s
  | .envDirect k l => Sys2Proof.Machine.execEnvDirect k l s
  | .sync => Sys2Proof.Machine.execSync s
  | .advance d => Sys2Proof.Machine.execAdvance d s

end Sys2Proof.Machine
end

