-- ==== Sys2Proof/Machine/Fetch.lean ====
section
/-! DEFINITION. Taking the next event word from the sequence, and applying it (R6, R10, R85). The block
fetches nothing from memory (R38): its input is the event sequence. -/

namespace Sys2Proof.Machine

/-- The next event word is taken: the position advances by exactly one (R10). -/
def State.fetched (rest : List Word) (s : State) : State := { s with events := rest, pos := s.pos + 1 }

/-- The word is placed where the next step takes its event, in place of the one that stands there. -/
def State.placeNext (w : Word) (s : State) : State := { s with events := w :: s.events.drop 1 }

/-- One event word applied (R85): a word that decodes to no event is refused, and an event is executed.
-/
def runWord (w : Word) (s : State) : Host.Outcome State Fault Refusal :=
  match decode s.cfg w with
  | .error r => settle s (.refused r)
  | .ok i => exec i s

/-- The next event of the sequence; there is none when it has run out (log 1). -/
def stepEvent (s : State) : Host.Outcome State Fault Refusal :=
  match s.events with
  | [] => .fault .endOfEvents
  | w :: rest => runWord w (s.fetched rest)

end Sys2Proof.Machine
end

