-- ==== Sys2Proof/Machine/Step.lean ====
section
/-! DEFINITION. The step function (R85) and the placing of one event word for it. -/

namespace Sys2Proof.Machine

/-- One step: one event of the sequence is applied. -/
def step (s : State) : Host.Outcome State Fault Refusal := stepEvent s

/-- The state with the event word of the opcode-table bits `w` placed as the next event. -/
def State.withFetchWord (s : State) (nbits w : Nat) : State := s.placeNext (tableWord nbits w)

end Sys2Proof.Machine
end

