-- ==== Sys2Proof/Machine/Answer.lean ====
section
/-! DEFINITION. What an event answers (R85: the next state or `Refused(reason)`; a read also returns its
value), as a function of the event. `exec` settles these answers into outcomes. -/

namespace Sys2Proof.Machine

/-- The answer of an event. -/
def answer (i : Instr) (s : State) : Answer :=
  match i with
  | .reset => answerReset s
  | .wrRow r l => answerWrRow r l s
  | .wrWdog l => answerWrWdog l s
  | .wrHclk l => answerWrHclk l s
  | .wrHdata l => answerWrHdata l s
  | .wrKdata l => answerWrKdata l s
  | .rdCols => answerRdCols s
  | .rdHdata => answerRdHdata s
  | .rdDirect k => answerRdDirect k s
  | .rdKclk => answerRdKclk s
  | .rdKdata => answerRdKdata s
  | .inHdata l => answerInHdata l s
  | .inKclk l => answerInKclk l s
  | .inKdata l => answerInKdata l s
  | .envKeyrow r m => answerEnvKeyrow r m s
  | .envDirect k l => answerEnvDirect k l s
  | .sync => answerSync s
  | .advance d => answerAdvance d s

/-- `step(S, w)` of R85: the answer of one event word. -/
def wordAnswer (w : Word) (s : State) : Answer :=
  match decode s.cfg w with
  | .error r => .refused r
  | .ok i => answer i s

/-- The state after an event, refused or not. -/
def perform (i : Instr) (s : State) : State := (answer i s).state s

/-- The state after events in order, with no other event between. -/
def performAll (is : List Instr) (s : State) : State := is.foldl (fun s i => perform i s) s

end Sys2Proof.Machine
end

