-- ==== Sys2Proof/Machine/Instances.lean ====
section
/-! DEFINITION. Several instances of the block (R87, R105): each owns its state and its event sequence,
and the one thing they have in common is the synchronization point. -/

namespace Sys2Proof.Machine

/-- A row of block instances. -/
structure System where
  blocks : List State
deriving DecidableEq, Repr

namespace System

/-- One step of block `n`, the others left as they are. A block that stops stays as it is
(log 14). -/
def stepBlock (n : Nat) (y : System) : System :=
  ⟨y.blocks.modify n (fun s =>
    match step s with
    | .next t => t
    | .fault _ => s
    | .refused _ => s)⟩

/-- The common synchronization point: `SYNC` at every block (R37, R105). DESIGN CHOICE (log 14): the spec
does not say how it stands in each instance's own event sequence (R10), and here it is applied beside all of
them, so it takes no word of any block's `events` and advances no block's `pos`. -/
def syncAll (y : System) : System := ⟨y.blocks.map (perform .sync)⟩

end System

end Sys2Proof.Machine
end

