-- ==== Sys2Proof/Machine/Pins.lean ====
section
/-! DEFINITION. Physical pins (R30, R31, R82, R83, R86): the writes and reads of a microcontroller pin as
the role writes and role reads of its `PINMAP` entry. They are no event words; a run reaches them as the
role events they consist of (log 12). -/

namespace Sys2Proof.Machine

/-- The roles of a physical pin, `PINMAP(p)`. On KPD the role `WDOG` stands on `KPD_WDOG_PIN` and on no
other pin (R86; log 12). -/
def pinRoles (c : Config) (p : PhysPin) : List Role :=
  let listed := (c.pinMap.lookup p).getD []
  match c.variant with
  | .kbd => listed
  | .kpd => listed.filter (fun r => decide (r ≠ .wdog)) ++ if p = c.kpdWdogPin then [.wdog] else []

/-- The canonical role order of R82. -/
def canonicalRoles (c : Config) : List Role :=
  (List.range c.rows).map Role.row ++ [.hclk, .hdataO, .kdataO, .wdog]

/-- The event a role write performs (table of R82). A read role is written by no event. -/
def roleWriteEvent (r : Role) (l : Level) : Option Instr :=
  match r with
  | .row i => some (.wrRow (BitVec.ofNat 8 i) l)
  | .hclk => some (.wrHclk l)
  | .hdataO => some (.wrHdata l)
  | .kdataO => some (.wrKdata l)
  | .wdog => some (.wrWdog l)
  | .col _ => none
  | .hdataI => none
  | .direct _ => none
  | .kclkI => none
  | .kdataI => none

/-- The events a write of `l` to pin `p` performs, in the canonical order (R82). -/
def pinWriteEvents (c : Config) (p : PhysPin) (l : Level) : List Instr :=
  ((canonicalRoles c).filter (fun r => decide (r ∈ pinRoles c p))).filterMap (fun r => roleWriteEvent r l)

/-- `handlePinWrite(pin, level)` (R82): every role write of the pin, as one atomic step. A pin with no
write role is a write the block ignores. -/
def handlePinWrite (p : PhysPin) (l : Level) (s : State) : State :=
  performAll (pinWriteEvents s.cfg p l) s

/-- A firmware port instruction that spans several pins (R31): physical pin writes in ascending pin
order, with no other event between. -/
def portWrite (pins : List (PhysPin × Level)) (s : State) : State :=
  (pins.insertionSort (fun a b => a.1 ≤ b.1)).foldl (fun s e => handlePinWrite e.1 e.2 s) s

/-- The role is one a read of the configured block has (R29, R83): its index is in range, and the
keypad's lines are on KPD. DESIGN CHOICE (log 12): on KBD a role `KCLK_I` or `KDATA_I` of an entry is no
read role, so a pin that has no other is refused with `RANGE`, though the events R89 and R90 give these
roles would be refused with `VARIANT`. The same holds of a column or a direct input out of range. -/
def readableRole (c : Config) (r : Role) : Bool :=
  match r with
  | .row _ => false
  | .wdog => false
  | .hclk => false
  | .hdataO => false
  | .kdataO => false
  | .col j => decide (j < c.cols)
  | .hdataI => true
  | .direct k => decide (k < c.nd)
  | .kclkI => decide (c.variant = .kpd)
  | .kdataI => decide (c.variant = .kpd)

/-- The read role of a pin: the first its entry names (log 12). -/
def pinReadRole (c : Config) (p : PhysPin) : Option Role := (pinRoles c p).find? (readableRole c)

/-- One column bit of a column read, as the value of a pin. -/
def columnBit (j : Nat) (a : Answer) : Answer :=
  match a with
  | .done t => .done t
  | .value v t => .value (levelValue (v.getLsbD j)) t
  | .refused r => .refused r

/-- The answer of a read role (table of R83). A write role is read by nothing. -/
def roleRead (r : Role) (s : State) : Answer :=
  match r with
  | .col j => columnBit j (answerRdCols s)
  | .hdataI => answerRdHdata s
  | .direct k => answerRdDirect (BitVec.ofNat 8 k) s
  | .kclkI => answerRdKclk s
  | .kdataI => answerRdKdata s
  | .row _ => .refused .range
  | .wdog => .refused .range
  | .hclk => .refused .range
  | .hdataO => .refused .range
  | .kdataO => .refused .range

/-- A firmware read of physical pin `p` (R83): the value of its read role; a pin with no read role is
refused with `RANGE`. -/
def handlePinRead (p : PhysPin) (s : State) : Answer :=
  match pinReadRole s.cfg p with
  | none => .refused .range
  | some r => roleRead r s

end Sys2Proof.Machine
end

