-- ==== Sys2Proof/Machine/Pseudo.lean ====
section
/-! DEFINITION. The pseudo-instructions of R50, as the events they expand to. -/

namespace Sys2Proof.Machine

/-- `ROWS P`: every row output, in increasing order. -/
def rowsEvents (c : Config) (p : Mask) : List Instr :=
  (List.range c.rows).map (fun i => .wrRow (BitVec.ofNat 8 i) (p.getLsbD i))

/-- `FEED`: one falling edge whatever the line held before. -/
def feedEvents : List Instr := [.wrWdog true, .wrWdog false]

/-- `WAIT d`, for any natural `d`. -/
def waitEvents (d : Nat) : List Instr :=
  List.replicate (d / 0xFFFFFF) (.advance 0xFFFFFF#24) ++ [.advance (BitVec.ofNat 24 (d % 0xFFFFFF))]

/-- `HOSTDATA L`: an inbound host change made visible at once. -/
def hostDataEvents (l : Level) : List Instr := [.inHdata l, .sync]

end Sys2Proof.Machine
end

