-- ==== Sys2Proof/Safety.lean ====
section
/-! DEFINITION. The terms claims are stated in: the watchdog invariant of R21, the widths of R11 to R13,
what the trace shows of each line (R25), and runs with no refusal (R26, R97). -/

namespace Sys2Proof.Machine

/-- R21: the watchdog's state, its deadlines and the reset line agree. -/
def State.WatchdogOk (s : State) : Prop :=
  (s.wdState = .armed →
    s.longDeadline = none ∧ s.shortDeadline = none ∧ s.resetAsserted = false) ∧
  (s.wdState = .countingLong →
    (∃ t, s.longDeadline = some t ∧ s.now ≤ t) ∧ s.shortDeadline = none ∧ s.resetAsserted = false) ∧
  (s.wdState = .resetAsserted →
    s.longDeadline = none ∧ (∃ t, s.shortDeadline = some t ∧ s.now ≤ t) ∧ s.resetAsserted = true)

/-- R21, second part: no pending deadline is the current time. -/
def State.DeadlinesAhead (s : State) : Prop :=
  ∀ t, s.longDeadline = some t ∨ s.shortDeadline = some t → s.now < t

/-- The widths of R11 to R13, and of R22 on KBD, where no keypad line is queued. -/
def State.WidthsOk (s : State) : Prop :=
  s.rowDrive.toNat < 2 ^ s.cfg.rows ∧
  s.keyState.length = s.cfg.rows ∧
  (∀ m ∈ s.keyState, m.toNat < 2 ^ s.cfg.cols) ∧
  s.direct.length = s.cfg.nd ∧
  (s.cfg.variant = .kbd → ∀ e ∈ s.syncQ, e.1 = .hdata)

/-- The notifications of one line, oldest first. -/
def notifications (line : OutLine) (trace : List Obs) : List Level :=
  trace.filterMap (fun o =>
    match o.kind with
    | .out l v => if l = line then some v else none
    | .read _ _ _ => none)

/-- The levels change at every entry, from a first level to a last one (R25: exactly one observation for
each actual change). -/
def Alternates : Level → List Level → Level → Prop
  | a, [], b => a = b
  | a, l :: ls, b => l ≠ a ∧ Alternates l ls b

/-- What the trace shows of each line leads from its level at device start to its level now (R25). The
keyboard has no keypad link, and shows nothing of it (R17). -/
def State.TraceOk (s : State) : Prop :=
  Alternates true (notifications .hclk s.trace) s.clockOut ∧
  Alternates true (notifications .hdata s.trace) s.dataOut ∧
  (s.cfg.variant = .kpd → Alternates true (notifications .kdata s.trace) s.kDataOut) ∧
  (s.cfg.variant = .kbd → notifications .kdata s.trace = []) ∧
  Alternates false (notifications .reset s.trace) s.resetAsserted

/-- The observations stand in the order of their times, and none is later than now (R25, R36). -/
def State.TimesOk (s : State) : Prop :=
  s.trace.Pairwise (fun a b => a.time ≤ b.time) ∧ ∀ o ∈ s.trace, o.time ≤ s.now

/-- An `ADVANCE` of `d` reaches a deadline `t` (R68, R69): by its new time when the timer goes first; when
the event goes first, before its new time, or already due when it begins. -/
def State.Reaches (s : State) (d t : Nat) : Prop :=
  match s.cfg.tieOrder with
  | .timerFirst => t ≤ s.now + d
  | .eventFirst => t ≤ s.now ∨ t < s.now + d

/-- The level of a line after the queued entries are applied in order: that of the last entry for the
line, or the level before if there is none (R78). -/
def lastLevel (line : Line) (before : Level) (q : List (Line × Level)) : Level :=
  ((q.filter (fun e => e.1 = line)).map Prod.snd).getLast?.getD before

/-- The invariant of the machine: the configuration is one R5 admits, and a started device meets R21 and
the widths of its fields. -/
def State.Inv (s : State) : Prop :=
  s.cfg.wf = true ∧
  (s.started = true →
    s.WatchdogOk ∧ (s.cfg.tieOrder = .timerFirst → s.DeadlinesAhead) ∧ s.WidthsOk)

/-- A clean run (R26, R97): no event of it was refused. -/
def State.Clean (s : State) : Prop := s.refused = false

end Sys2Proof.Machine
end

