-- ==== Sys2Proof/Certificates/Slice0/Obligations.lean ====
section
/-! DEFINITION. The statements for the provers. Each docstring names the rule of `spec/` it comes from.
An observation is written `⟨time, kind⟩`; a level is `true` for 1 and `false` for 0. -/

open Sys2Proof Sys2Proof.Machine

/-! ### Encoding -/

/-- R39 to R44, R49, R50: every event the configured block has is read back from its word, with every
operand at every value. -/
def Obligations.DecodeOfEncode : Prop :=
  ∀ (c : Config) (i : Instr), i.wellFormed c = true → decode c (encode i) = .ok i

/-- R44, R49: a word that decodes is the word of its event, bit for bit, and the event is one the
configured block has. -/
def Obligations.EncodeOfDecode : Prop :=
  ∀ (c : Config) (w : Word) (i : Instr), decode c w = .ok i → encode i = w ∧ i.wellFormed c = true

/-- R45: every word with an unassigned operation is refused with `BAD_OP`, in both variants and before any
other check; the all-zero word is `RESET`. -/
def Obligations.UnassignedOpsAreBadOp : Prop :=
  (∀ (c : Config) (w : Word),
    (let op := (w >>> 24).toNat
     (0x06 ≤ op ∧ op ≤ 0x0F) ∨ (0x15 ≤ op ∧ op ≤ 0x1F) ∨ (0x23 ≤ op ∧ op ≤ 0x2F) ∨
       (0x32 ≤ op ∧ op ≤ 0x3F) ∨ 0x42 ≤ op) →
    decode c w = .error .badOp) ∧
  (∀ c : Config, decode c 0x00000000#32 = .ok .reset)

/-- R44: a word of an assigned operation with a reserved bit set is refused with `RESERVED_BITS`, in both
variants; on KPD a bit of `ENV_KEYROW`'s mask above `W` is refused with `RANGE`. The pairs are the match
and mask columns of the opcode table (`ADVANCE` has no reserved bit). -/
def Obligations.ReservedBitsAreRefused : Prop :=
  (∀ p ∈ ([(0x00000000#32, 0xFFFFFFFF#32), (0x01000000#32, 0xFF00FFFE#32), (0x02000000#32, 0xFFFFFFFE#32),
      (0x03000000#32, 0xFFFFFFFE#32), (0x04000000#32, 0xFFFFFFFE#32), (0x05000000#32, 0xFFFFFFFE#32),
      (0x10000000#32, 0xFFFFFFFF#32), (0x11000000#32, 0xFFFFFFFF#32), (0x12000000#32, 0xFF00FFFF#32)] ++
      [(0x13000000#32, 0xFFFFFFFF#32), (0x14000000#32, 0xFFFFFFFF#32), (0x20000000#32, 0xFFFFFFFE#32),
      (0x21000000#32, 0xFFFFFFFE#32), (0x22000000#32, 0xFFFFFFFE#32), (0x30000000#32, 0xFF00FE00#32),
      (0x31000000#32, 0xFF00FFFE#32), (0x40000000#32, 0xFFFFFFFF#32)] :
      List (Word × Word)),
    ∀ (c : Config) (w : Word),
      w &&& 0xFF000000#32 = p.1 → w &&& p.2 ≠ p.1 → decode c w = .error .reservedBits) ∧
  ∀ (c : Config) (w : Word), c.variant = .kpd →
    w &&& 0xFF00FE00#32 = 0x30000000#32 → w &&& 0x000001F8#32 ≠ 0 → decode c w = .error .range

/-- R46: on KBD the keypad-only events are refused with `VARIANT`, as words and as events, whatever the
state. -/
def Obligations.KeypadEventsRefusedOnKeyboard : Prop :=
  ∀ (s : State) (l : Level), s.cfg.variant = .kbd →
    ∀ i ∈ [Instr.wrKdata l, .rdKclk, .rdKdata, .inKclk l, .inKdata l],
      decode s.cfg (encode i) = .error .variant ∧ answer i s = .refused .variant ∧
        exec i s = .next { s with refused := true }

/-- R47, R48: a row index, a direct-input index or a row mask out of range is refused with `RANGE`, as a
word and as an event, whatever the state. -/
def Obligations.OutOfRangeOperandsRefused : Prop :=
  ∀ (s : State) (l : Level) (m : Mask) (k : Idx),
    (s.cfg.rows ≤ k.toNat → ∀ i ∈ [Instr.wrRow k l, .envKeyrow k m],
      decode s.cfg (encode i) = .error .range ∧ answer i s = .refused .range ∧
        exec i s = .next { s with refused := true }) ∧
    (s.cfg.nd ≤ k.toNat → ∀ i ∈ [Instr.rdDirect k, .envDirect k l],
      decode s.cfg (encode i) = .error .range ∧ answer i s = .refused .range ∧
        exec i s = .next { s with refused := true }) ∧
    (2 ^ s.cfg.cols ≤ m.toNat →
      decode s.cfg (encode (.envKeyrow k m)) = .error .range ∧
        answer (.envKeyrow k m) s = .refused .range ∧
        exec (.envKeyrow k m) s = .next { s with refused := true })

/-- R32, R51: an event word is stored most-significant byte first, four bytes to a word, and is read back
with the bytes after it untouched. (That stored bytes are read without a configuration, so that they are
read back as the event also where no configured block has it, is the model's choice: log 5.) -/
def Obligations.StoredWordsAreReadBack : Prop :=
  ∀ (i : Instr) (rest : List Byte),
    wordBytes (encode i) =
      [((encode i) >>> 24).setWidth 8, ((encode i) >>> 16).setWidth 8, ((encode i) >>> 8).setWidth 8,
        (encode i).setWidth 8] ∧
    decodeBytes (wordBytes (encode i) ++ rest) = .ok (i, rest)

/-- R50: words written out from the forms, one or more of each family (a sanity statement). -/
def Obligations.WordsOfTheSpecDecode : Prop :=
  decode Config.keypad 0x01020001#32 = .ok (.wrRow 2 true) ∧
  decode Config.keypad 0x12010000#32 = .ok (.rdDirect 1) ∧
  decode Config.keyboard 0x300001FE#32 = .ok (.envKeyrow 0 0x1FE) ∧
  decode Config.keyboard 0x02000000#32 = .ok (.wrWdog false) ∧
  decode Config.keyboard 0x4100F0A0#32 = .ok (.advance 61600) ∧
  decode Config.keyboard 0x20000001#32 = .ok (.inHdata true) ∧
  decode Config.keypad 0x05000000#32 = .ok (.wrKdata false) ∧
  decode Config.keypad 0x00000000#32 = .ok .reset

/-! ### The step -/

/-- R85: when the next event word decodes to an event, the step is that event's execution, on the state
with the word taken and the position one further (R10). -/
def Obligations.StepRunsTheDecodedEvent : Prop :=
  ∀ (s : State) (w : Word) (rest : List Word) (i : Instr),
    s.events = w :: rest → decode s.cfg w = .ok i →
    step s = exec i { s with events := rest, pos := s.pos + 1 }

/-- R85, R97: when the next event word does not decode, the step refuses it: nothing changes but the mark,
and the word is taken. -/
def Obligations.StepRefusesAnUndecodableWord : Prop :=
  ∀ (s : State) (w : Word) (rest : List Word) (r : RefusalReason),
    s.events = w :: rest → decode s.cfg w = .error r →
    wordAnswer w s = .refused r ∧
      step s = .next { s with events := rest, pos := s.pos + 1, refused := true }

/-- R85, R24, R84: a word is refused exactly when decoding refuses it, when it is no `RESET` before device
start (`NOT_STARTED`), or when it is `RESET` after it (`RESTART`); a refused word leaves every field but
the mark. -/
def Obligations.WordsAreRefusedExactlyAsR85Says : Prop :=
  ∀ (s : State) (w : Word) (r : RefusalReason),
    (wordAnswer w s = .refused r ↔
      decode s.cfg w = .error r ∨
      (∃ i, decode s.cfg w = .ok i ∧ i ≠ .reset ∧ s.started = false ∧ r = .notStarted) ∨
      (decode s.cfg w = .ok .reset ∧ s.started = true ∧ r = .restart)) ∧
    (wordAnswer w s = .refused r → runWord w s = .next { s with refused := true })

/-- R10: a step takes exactly one event, the position advances by one, and the configuration stays; a
refused event too. -/
def Obligations.StepTakesExactlyOneEvent : Prop :=
  ∀ s t : State, step s = .next t →
    s.events ≠ [] ∧ t.events = s.events.tail ∧ t.pos = s.pos + 1 ∧ t.cfg = s.cfg

/-- R95, R97: no event stops the machine. While there is an event, a step answers a next state; the model's
one stop is the end of the event sequence (log 1). -/
def Obligations.NoEventStopsTheMachine : Prop :=
  ∀ s : State,
    (s.events ≠ [] → ∃ t, step s = .next t) ∧ (s.events = [] → step s = .fault .endOfEvents)

/-- R34, R36: a step sees no later event. With other events behind the next one it does the same. -/
def Obligations.LaterEventsAreNotSeen : Prop :=
  ∀ (s t : State) (more : List Word), step s = .next t →
    step { s with events := s.events ++ more } = .next { t with events := t.events ++ more }

/-- R26: the refusal mark is set by any refused event and is never cleared, not even by `RESET`; it is
false in the pre-start state. -/
def Obligations.RefusalMarkIsSticky : Prop :=
  (∀ (s t : State) (w : Word) (rest : List Word), s.events = w :: rest → step s = .next t →
    (t.refused = true ↔ s.refused = true ∨ ∃ r, wordAnswer w s = .refused r)) ∧
  (∀ c : Config, (State.preStart c).refused = false)

/-! ### Device start -/

/-- R84: `RESET` before device start sets every field as listed, changes nothing else, and shows nothing;
after device start it is refused with `RESTART`. -/
def Obligations.ResetFollowsR84 : Prop :=
  encode .reset = 0x00000000#32 ∧
  ∀ s : State,
    (s.started = false →
      exec .reset s = .next
        { s with
          rowDrive := maskOf s.cfg.rows, keyState := s.cfg.keys0, direct := s.cfg.direct0,
          clockOut := true, dataOut := true, dataIn := true,
          kClockIn := if s.cfg.variant = .kpd then true else s.kClockIn,
          kDataIn := if s.cfg.variant = .kpd then true else s.kDataIn,
          kDataOut := if s.cfg.variant = .kpd then true else s.kDataOut,
          wdLine := true, wdState := .armed, resetAsserted := false,
          longDeadline := none, shortDeadline := none,
          syncQ := [], now := 0, trace := [], started := true }) ∧
    (s.started = true →
      answer .reset s = .refused .restart ∧ exec .reset s = .next { s with refused := true })

/-- R27: the one event word `RESET` sets every field of the device as R27's table has it, whatever it was
before, and leaves the refusal mark; a pre-start state is not started, and nothing is refused in it. -/
def Obligations.DeviceStartSetsEveryField : Prop :=
  (∀ (s : State) (rest : List Word), s.started = false → s.events = 0x00000000#32 :: rest →
    ∃ t, step s = .next t ∧
      t.rowDrive = (match s.cfg.variant with | .kbd => 0x1FF | .kpd => 0x7) ∧
      t.keyState = s.cfg.keys0 ∧ t.direct = s.cfg.direct0 ∧
      t.clockOut = true ∧ t.dataOut = true ∧ t.dataIn = true ∧
      (s.cfg.variant = .kpd → t.kClockIn = true ∧ t.kDataIn = true ∧ t.kDataOut = true) ∧
      t.wdLine = true ∧ t.wdState = .armed ∧ t.resetAsserted = false ∧
      t.longDeadline = none ∧ t.shortDeadline = none ∧ t.syncQ = [] ∧ t.now = 0 ∧
      t.started = true ∧ t.trace = [] ∧ t.refused = s.refused) ∧
  (∀ c : Config, (State.preStart c).started = false ∧ (State.preStart c).refused = false)

/-! ### Matrix -/

/-- R53: `WR_ROW i, L` writes row-drive output `i`, and nothing else; it shows nothing. Refused with
`RANGE` when the row does not exist, and with `RESERVED_BITS` when a reserved bit of its word is set. -/
def Obligations.WrRowFollowsR53 : Prop :=
  ∀ (i : Idx) (l : Level) (s : State),
    encode (.wrRow i l) =
      0x01000000#32 ||| (i.setWidth 32 <<< 16) ||| (BitVec.ofBool l).setWidth 32 ∧
    (∀ w : Word, w &&& 0xFF000000#32 = 0x01000000#32 → w &&& 0xFF00FFFE#32 ≠ 0x01000000#32 →
      decode s.cfg w = .error .reservedBits) ∧
    (s.cfg.rows ≤ i.toNat →
      answer (.wrRow i l) s = .refused .range ∧
        exec (.wrRow i l) s = .next { s with refused := true }) ∧
    (s.started = true → i.toNat < s.cfg.rows →
      ∃ v : Mask, exec (.wrRow i l) s = .next { s with rowDrive := v } ∧
        ∀ j < 9, v.getLsbD j = if j = i.toNat then l else s.rowDrive.getLsbD j)

/-- R54: `RD_COLS` returns the columns, appends one observation of them, and changes nothing else. Its word
is refused only on reserved bits. -/
def Obligations.RdColsFollowsR54 : Prop :=
  encode .rdCols = 0x10000000#32 ∧
  (∀ (c : Config) (w : Word), w &&& 0xFF000000#32 = 0x10000000#32 →
    decode c w = if w = 0x10000000#32 then .ok .rdCols else .error .reservedBits) ∧
  ∀ s : State, s.started = true →
    (let v := readColumns s.cfg.rows s.cfg.cols s.rowDrive s.keyRow
     let t := { s with trace := s.trace ++ [⟨s.now, .read .cols 0 v⟩] }
     answer .rdCols s = .value v t ∧ exec .rdCols s = .next t)

/-- R55: `RD_DIRECT k` returns the input's level, inverted if `DIRECT_INVERT`, appends one observation of
it, and changes nothing else. Refused with `RANGE` when the input does not exist. -/
def Obligations.RdDirectFollowsR55 : Prop :=
  ∀ (k : Idx) (s : State),
    encode (.rdDirect k) = 0x12000000#32 ||| (k.setWidth 32 <<< 16) ∧
    (s.cfg.nd ≤ k.toNat →
      answer (.rdDirect k) s = .refused .range ∧
        exec (.rdDirect k) s = .next { s with refused := true }) ∧
    (∀ l : Level, s.started = true → k.toNat < s.cfg.nd → s.direct[k.toNat]? = some l →
      (let v : Mask := if (l != s.cfg.directInvert) = true then 1 else 0
       let t := { s with trace := s.trace ++ [⟨s.now, .read .direct k v⟩] }
       answer (.rdDirect k) s = .value v t ∧ exec (.rdDirect k) s = .next t))

/-- R56: `ENV_KEYROW r, M` sets key-state row `r`, and nothing else. Refused with `RANGE` when the row
does not exist or the mask is wider than a row. The row is seen by the next column read at once, with no
`SYNC`: with row `r` alone driven, that read returns `M` inverted. -/
def Obligations.EnvKeyrowFollowsR56 : Prop :=
  ∀ (r : Idx) (m : Mask) (s : State),
    encode (.envKeyrow r m) = 0x30000000#32 ||| (r.setWidth 32 <<< 16) ||| m.setWidth 32 ∧
    (s.cfg.rows ≤ r.toNat ∨ 2 ^ s.cfg.cols ≤ m.toNat →
      answer (.envKeyrow r m) s = .refused .range ∧
        exec (.envKeyrow r m) s = .next { s with refused := true }) ∧
    (s.started = true → r.toNat < s.cfg.rows → m.toNat < 2 ^ s.cfg.cols →
      s.keyState.length = s.cfg.rows →
      ∃ ks : List Mask, exec (.envKeyrow r m) s = .next { s with keyState := ks } ∧
        ks.length = s.cfg.rows ∧
        (∀ j, ks[j]? = if j = r.toNat then some m else s.keyState[j]?) ∧
        ((∀ i < s.cfg.rows, s.rowDrive.getLsbD i = false ↔ i = r.toNat) →
          ∃ u, answer .rdCols { s with keyState := ks } = .value (m ^^^ maskOf s.cfg.cols) u))

/-- R57: `ENV_DIRECT k, L` sets direct input `k`, and nothing else. Refused with `RANGE` when the input
does not exist. The level is seen by the next `RD_DIRECT k` at once. -/
def Obligations.EnvDirectFollowsR57 : Prop :=
  ∀ (k : Idx) (l : Level) (s : State),
    encode (.envDirect k l) =
      0x31000000#32 ||| (k.setWidth 32 <<< 16) ||| (BitVec.ofBool l).setWidth 32 ∧
    (s.cfg.nd ≤ k.toNat →
      answer (.envDirect k l) s = .refused .range ∧
        exec (.envDirect k l) s = .next { s with refused := true }) ∧
    (s.started = true → k.toNat < s.cfg.nd → s.direct.length = s.cfg.nd →
      ∃ ds : List Level, exec (.envDirect k l) s = .next { s with direct := ds } ∧
        ds.length = s.cfg.nd ∧
        (∀ j, ds[j]? = if j = k.toNat then some l else s.direct[j]?) ∧
        ∃ u, answer (.rdDirect k) { s with direct := ds } =
          .value (if (l != s.cfg.directInvert) = true then 1 else 0) u)

/-- The closed form that R52 derives from its loop: column `j` reads 1 exactly when some driven row has that
key pressed. (That the columns the variant does not have are there and read 0 is the model's choice: a mask
is nine bits wide in both variants, log 6.) -/
def Obligations.ColumnReadsSomeDrivenPressedKey : Prop :=
  ∀ (n : Nat) (rowDrive : Mask) (keyRow : Nat → Mask) (j : Nat), n ≤ 9 →
    ((readColumns n n rowDrive keyRow).getLsbD j = true ↔
      j < n ∧ ∃ i < n, rowDrive.getLsbD i = false ∧ (keyRow i).getLsbD j = false)

/-- R58, the ghosting law: the column read depends on no undriven row, and is the inverted AND of exactly
the driven rows. -/
def Obligations.UndrivenRowsNeverInfluenceTheColumns : Prop :=
  ∀ (n w : Nat) (rowDrive : Mask) (keyRow keyRow' : Nat → Mask),
    ((∀ i < n, rowDrive.getLsbD i = false → keyRow i = keyRow' i) →
      readColumns n w rowDrive keyRow = readColumns n w rowDrive keyRow') ∧
    readColumns n w rowDrive keyRow =
      maskOf w ^^^ (((List.range n).filter (fun i => !rowDrive.getLsbD i)).map keyRow).foldr
        (fun a b => a &&& b) (maskOf w)

/-! ### Watchdog -/

/-- R60 to R64: `WR_WDOG L` records the level in every state; a falling edge arms the long timer in ARMED,
rearms it in COUNTING_LONG and does nothing more in RESET_ASSERTED; a rising edge or a level already held
does nothing more. Every field not named stays. -/
def Obligations.WrWdogFollowsR60 : Prop :=
  ∀ (l : Level) (s : State),
    encode (.wrWdog l) = 0x02000000#32 ||| (BitVec.ofBool l).setWidth 32 ∧
    (s.started = true →
      (¬ (s.wdLine = true ∧ l = false) → exec (.wrWdog l) s = .next { s with wdLine := l }) ∧
      (s.wdLine = true → l = false → s.wdState = .armed →
        exec (.wrWdog l) s = .next
          { s with wdLine := false, longDeadline := some (s.now + s.cfg.tLong),
                   wdState := .countingLong }) ∧
      (s.wdLine = true → l = false → s.wdState = .countingLong →
        exec (.wrWdog l) s = .next
          { s with wdLine := false, longDeadline := some (s.now + s.cfg.tLong) }) ∧
      (s.wdLine = true → l = false → s.wdState = .resetAsserted →
        exec (.wrWdog l) s = .next { s with wdLine := false }))

/-- R65 to R69, R100, R101: what `ADVANCE d` does in each watchdog state, under both tie orders, field by
field: the long expiry at its own deadline asserts the reset line and arms the short timer; the short
expiry at its own deadline releases it. -/
def Obligations.AdvanceFiresTheDueDeadlines : Prop :=
  ∀ (d : Delta) (s : State), s.Inv → s.started = true →
    (s.wdState = .armed → exec (.advance d) s = .next { s with now := s.now + d.toNat }) ∧
    (∀ L, s.wdState = .countingLong → s.longDeadline = some L →
      (¬ s.Reaches d.toNat L →
        exec (.advance d) s = .next { s with now := s.now + d.toNat }) ∧
      (s.Reaches d.toNat L → ¬ s.Reaches d.toNat (L + s.cfg.tShort) →
        exec (.advance d) s = .next
          { s with now := s.now + d.toNat, wdState := .resetAsserted, resetAsserted := true,
                   longDeadline := none, shortDeadline := some (L + s.cfg.tShort),
                   trace := s.trace ++ [⟨L, .out .reset true⟩] }) ∧
      (s.Reaches d.toNat L → s.Reaches d.toNat (L + s.cfg.tShort) →
        exec (.advance d) s = .next
          { s with now := s.now + d.toNat, wdState := .armed, resetAsserted := false,
                   longDeadline := none, shortDeadline := none,
                   trace := s.trace ++
                     [⟨L, .out .reset true⟩, ⟨L + s.cfg.tShort, .out .reset false⟩] })) ∧
    (∀ S, s.wdState = .resetAsserted → s.shortDeadline = some S →
      (¬ s.Reaches d.toNat S →
        exec (.advance d) s = .next { s with now := s.now + d.toNat }) ∧
      (s.Reaches d.toNat S →
        exec (.advance d) s = .next
          { s with now := s.now + d.toNat, wdState := .armed, resetAsserted := false,
                   shortDeadline := none,
                   trace := s.trace ++ [⟨S, .out .reset false⟩] }))

/-- R72: asserting and releasing the reset line changes the watchdog's own fields, the time and the trace,
and nothing else in the block, from any state; and all the trace gains is observations of the reset line. -/
def Obligations.AdvanceKeepsTheRestOfTheBlock : Prop :=
  ∀ (d : Delta) (s t : State), s.started = true → exec (.advance d) s = .next t →
    t = { s with now := t.now, wdState := t.wdState, resetAsserted := t.resetAsserted,
                 longDeadline := t.longDeadline, shortDeadline := t.shortDeadline, trace := t.trace } ∧
    ∃ shown : List Obs, t.trace = s.trace ++ shown ∧ ∀ o ∈ shown, ∃ l, o.kind = .out .reset l

/-- R65, R66, R103 (the source's scenario SRC-3): one falling edge at `T0` and none after it asserts the
reset line at `T0 + T_LONG` and releases it at `T0 + T_LONG + T_SHORT`, and the watchdog is ARMED again. -/
def Obligations.OneEdgeGivesOneResetPulse : Prop :=
  ∀ (s t : State) (d : Delta), s.Inv → s.started = true → s.wdState = .armed → s.wdLine = true →
    exec (.wrWdog false) s = .next t → t.Reaches d.toNat (s.now + s.cfg.tLong + s.cfg.tShort) →
    exec (.advance d) t = .next
      { s with
        wdLine := false, now := s.now + d.toNat,
        trace := s.trace ++
          [⟨s.now + s.cfg.tLong, .out .reset true⟩,
           ⟨s.now + s.cfg.tLong + s.cfg.tShort, .out .reset false⟩] }

/-- R62: the long timer is restarted and not accumulated: after a falling edge in COUNTING_LONG no passage
of time that does not reach `T_LONG` after that edge fires anything, whatever the deadline was before. -/
def Obligations.RetriggerRestartsTheWindow : Prop :=
  ∀ (s t : State) (d : Delta), s.Inv → s.started = true → s.wdState = .countingLong →
    s.wdLine = true → exec (.wrWdog false) s = .next t →
    ¬ t.Reaches d.toNat (s.now + s.cfg.tLong) →
    exec (.advance d) t = .next
      { s with wdLine := false, longDeadline := some (s.now + s.cfg.tLong), now := s.now + d.toNat }

/-- R69, R43: two passages of time are one of the summed interval, from any started state, under
TIMER_FIRST, and under EVENT_FIRST when the second is not zero (the rules' pseudocode does not give it
when it is: log 9). -/
def Obligations.AdvancesAddUp : Prop :=
  ∀ (a b : Delta) (s t : State), s.started = true → a.toNat + b.toNat < 2 ^ 24 →
    (s.cfg.tieOrder = .timerFirst ∨ b ≠ 0) →
    exec (.advance a) s = .next t → exec (.advance b) t = exec (.advance (a + b)) s

/-- R68, R69 (log 9): under EVENT_FIRST a passage of time that ends on a deadline, the long one or the short
one, leaves it pending, and an `ADVANCE 0` after it fires it, stamped with that time. So
`ADVANCE a ; ADVANCE 0` is not `ADVANCE a` there. -/
def Obligations.AdvanceZeroFiresATiedDeadline : Prop :=
  ∀ (a : Delta) (s : State), s.Inv → s.started = true → s.cfg.tieOrder = .eventFirst → a ≠ 0 →
    (s.wdState = .countingLong → s.longDeadline = some (s.now + a.toNat) →
      exec (.advance a) s = .next { s with now := s.now + a.toNat } ∧
      exec (.advance 0) { s with now := s.now + a.toNat } = .next
        { s with now := s.now + a.toNat, wdState := .resetAsserted, resetAsserted := true,
                 longDeadline := none, shortDeadline := some (s.now + a.toNat + s.cfg.tShort),
                 trace := s.trace ++ [⟨s.now + a.toNat, .out .reset true⟩] }) ∧
    (s.wdState = .resetAsserted → s.shortDeadline = some (s.now + a.toNat) →
      exec (.advance a) s = .next { s with now := s.now + a.toNat } ∧
      exec (.advance 0) { s with now := s.now + a.toNat } = .next
        { s with now := s.now + a.toNat, wdState := .armed, resetAsserted := false,
                 shortDeadline := none,
                 trace := s.trace ++ [⟨s.now + a.toNat, .out .reset false⟩] })

/-- R67: the firing procedure returns only when no deadline is due any more, from any state, with either
bound. -/
def Obligations.FiringLeavesNothingDue : Prop :=
  ∀ (s : State) (bound d : Nat) (strict : Bool),
    (s.fireDue bound strict).longDeadline = some d ∨
      ((s.fireDue bound strict).longDeadline = none ∧ (s.fireDue bound strict).shortDeadline = some d) →
    if strict = true then bound ≤ d else bound < d

/-- R21: every step keeps the watchdog invariant (with strict deadlines under TIMER_FIRST), the widths of
the fields, and the configuration's conditions, from every state that has them. -/
def Obligations.StepKeepsTheInvariant : Prop :=
  ∀ s t : State, s.Inv → step s = .next t → t.Inv

/-- R21, R25, R27: the invariant and both properties of the trace hold at device start, and the invariant
before it, for every configuration R5 admits; and at reset, which is device start of the keypad at its
default configuration, one event in (the model's choices: log 2, log 3). -/
def Obligations.InvariantHoldsAtDeviceStart : Prop :=
  (∀ c : Config, c.wf = true →
    (State.afterStart c).Inv ∧ (State.preStart c).Inv ∧
    (State.afterStart c).TraceOk ∧ (State.afterStart c).TimesOk) ∧
  State.reset.Inv ∧ State.reset.TraceOk ∧ State.reset.TimesOk ∧
  State.reset = State.afterStart Config.keypad ∧
  ∀ c : Config, step { State.preStart c with events := [0x00000000#32] } = .next (State.afterStart c)

/-- R96, R100, R101: the reset line is asserted only by the long expiry, at its deadline, and released only
by the short expiry, at its deadline, both inside `ADVANCE`; no other event changes it. -/
def Obligations.ResetLineChangesOnlyByExpiry : Prop :=
  ∀ s t : State, s.Inv → s.started = true → step s = .next t → s.resetAsserted ≠ t.resetAsserted →
    (∃ w d, s.events.head? = some w ∧ decode s.cfg w = .ok (.advance d)) ∧
    (t.resetAsserted = true →
      ∃ L, s.longDeadline = some L ∧ t.trace = s.trace ++ [⟨L, .out .reset true⟩] ∧
        t.shortDeadline = some (L + s.cfg.tShort)) ∧
    (t.resetAsserted = false →
      ∃ S, s.shortDeadline = some S ∧ t.trace = s.trace ++ [⟨S, .out .reset false⟩] ∧
        t.wdState = .armed)

/-- R63, R101, R111: while the reset pulse runs, no event but `ADVANCE` changes the watchdog's state, its
deadlines or the reset line: edges are recorded and ignored. -/
def Obligations.EventsCannotTouchTheResetPulse : Prop :=
  ∀ (i : Instr) (s t : State), s.started = true → s.wdState = .resetAsserted →
    (∀ d, i ≠ .advance d) → exec i s = .next t →
    t.wdState = .resetAsserted ∧ t.resetAsserted = s.resetAsserted ∧
      t.longDeadline = s.longDeadline ∧ t.shortDeadline = s.shortDeadline ∧ t.now = s.now

/-- R108: a firmware that never produces a falling edge (it writes 0 to the supervised line only where that
line is 0 already) is never reset, whatever else happens and however long: from ARMED the watchdog stays
ARMED, and the trace shows nothing of the reset line. -/
def Obligations.NoFallingEdgeNoReset : Prop :=
  ∀ (is : List Instr) (s : State), s.Inv → s.started = true → s.wdState = .armed →
    (∀ before after, is = before ++ .wrWdog false :: after → (performAll before s).wdLine = false) →
    (performAll is s).wdState = .armed ∧ (performAll is s).resetAsserted = false ∧
      notifications .reset (performAll is s).trace = notifications .reset s.trace

/-- R50, R60, R110: `FEED` gives one falling edge whatever the supervised line held before. -/
def Obligations.FeedRetriggersWhateverTheLineHeld : Prop :=
  ∀ s : State, s.started = true →
    performAll feedEvents s =
      match s.wdState with
      | .armed =>
        { s with wdLine := false, longDeadline := some (s.now + s.cfg.tLong), wdState := .countingLong }
      | .countingLong => { s with wdLine := false, longDeadline := some (s.now + s.cfg.tLong) }
      | .resetAsserted => { s with wdLine := false }

/-! ### Links and synchronization -/

/-- R73: `WR_HCLK L` stores and notifies an actual change of the clock line, once, and does nothing for the
level already held. -/
def Obligations.WrHclkFollowsR73 : Prop :=
  ∀ (l : Level) (s : State),
    encode (.wrHclk l) = 0x03000000#32 ||| (BitVec.ofBool l).setWidth 32 ∧
    (s.started = true →
      (s.clockOut = l → exec (.wrHclk l) s = .next s) ∧
      (s.clockOut ≠ l → exec (.wrHclk l) s = .next
        { s with clockOut := l, trace := s.trace ++ [⟨s.now, .out .hclk l⟩] }))

/-- R74: `WR_HDATA L` stores and notifies an actual change of the data line, once, and does nothing for the
level already held; what the host drives is not touched. -/
def Obligations.WrHdataFollowsR74 : Prop :=
  ∀ (l : Level) (s : State),
    encode (.wrHdata l) = 0x04000000#32 ||| (BitVec.ofBool l).setWidth 32 ∧
    (s.started = true →
      (s.dataOut = l → exec (.wrHdata l) s = .next s) ∧
      (s.dataOut ≠ l → exec (.wrHdata l) s = .next
        { s with dataOut := l, trace := s.trace ++ [⟨s.now, .out .hdata l⟩] }))

/-- R88: on KPD `WR_KDATA L` stores and notifies an actual change of the line toward the chained keyboard,
once; on KBD it is refused with `VARIANT`. -/
def Obligations.WrKdataFollowsR88 : Prop :=
  ∀ (l : Level) (s : State),
    encode (.wrKdata l) = 0x05000000#32 ||| (BitVec.ofBool l).setWidth 32 ∧
    (s.cfg.variant = .kbd →
      answer (.wrKdata l) s = .refused .variant ∧
        exec (.wrKdata l) s = .next { s with refused := true }) ∧
    (s.started = true → s.cfg.variant = .kpd →
      (s.kDataOut = l → exec (.wrKdata l) s = .next s) ∧
      (s.kDataOut ≠ l → exec (.wrKdata l) s = .next
        { s with kDataOut := l, trace := s.trace ++ [⟨s.now, .out .kdata l⟩] }))

/-- R75: `RD_HDATA` returns the host's level inverted, appends one observation of it, and changes nothing
else; a change still queued is not seen. -/
def Obligations.RdHdataFollowsR75 : Prop :=
  encode .rdHdata = 0x11000000#32 ∧
  ∀ s : State, s.started = true →
    (let v : Mask := if s.dataIn = true then 0 else 1
     let t := { s with trace := s.trace ++ [⟨s.now, .read .hdata 0 v⟩] }
     answer .rdHdata s = .value v t ∧ exec .rdHdata s = .next t)

/-- R89, R90: on KPD `RD_KCLK` and `RD_KDATA` return the chained keyboard's level, inverted if
`KIN_INVERT`, append one observation of it, and change nothing else; on KBD they are refused with
`VARIANT`. -/
def Obligations.KeypadReadsFollowR89R90 : Prop :=
  encode .rdKclk = 0x13000000#32 ∧ encode .rdKdata = 0x14000000#32 ∧
  ∀ s : State,
    (s.cfg.variant = .kbd → ∀ i ∈ [Instr.rdKclk, .rdKdata],
      answer i s = .refused .variant ∧ exec i s = .next { s with refused := true }) ∧
    (s.started = true → s.cfg.variant = .kpd →
      (let v : Mask := if (s.kClockIn != s.cfg.kinInvert) = true then 1 else 0
       let t := { s with trace := s.trace ++ [⟨s.now, .read .kclk 0 v⟩] }
       answer .rdKclk s = .value v t ∧ exec .rdKclk s = .next t) ∧
      (let v : Mask := if (s.kDataIn != s.cfg.kinInvert) = true then 1 else 0
       let t := { s with trace := s.trace ++ [⟨s.now, .read .kdata 0 v⟩] }
       answer .rdKdata s = .value v t ∧ exec .rdKdata s = .next t))

/-- R76, R91, R92: an inbound change is queued behind those already waiting, and nothing else changes; the
keypad's two are refused with `VARIANT` on KBD. -/
def Obligations.InboundChangesAreQueued : Prop :=
  ∀ (l : Level) (s : State),
    encode (.inHdata l) = 0x20000000#32 ||| (BitVec.ofBool l).setWidth 32 ∧
    encode (.inKclk l) = 0x21000000#32 ||| (BitVec.ofBool l).setWidth 32 ∧
    encode (.inKdata l) = 0x22000000#32 ||| (BitVec.ofBool l).setWidth 32 ∧
    (s.started = true →
      exec (.inHdata l) s = .next { s with syncQ := s.syncQ ++ [(.hdata, l)] }) ∧
    (s.started = true → s.cfg.variant = .kpd →
      exec (.inKclk l) s = .next { s with syncQ := s.syncQ ++ [(.kclk, l)] } ∧
      exec (.inKdata l) s = .next { s with syncQ := s.syncQ ++ [(.kdata, l)] }) ∧
    (s.cfg.variant = .kbd → ∀ i ∈ [Instr.inKclk l, .inKdata l],
      answer i s = .refused .variant ∧ exec i s = .next { s with refused := true })

/-- R77, R78: `SYNC` applies every queued change at once, the last entry of each line winning, empties the
queue, and changes nothing else: no time passes, no timer fires, nothing is shown. `HOSTDATA L` (R50) does
so with a host level queued last, so that level is the one applied. (That a keypad line's entry is passed
over on KBD, where the rules admit none, is the model's choice: log 7.) -/
def Obligations.SyncAppliesTheWholeQueue : Prop :=
  encode .sync = 0x40000000#32 ∧
  (∀ s : State, s.started = true →
    exec .sync s = .next
      { s with
        dataIn := lastLevel .hdata s.dataIn s.syncQ
        kClockIn := if s.cfg.variant = .kpd then lastLevel .kclk s.kClockIn s.syncQ else s.kClockIn
        kDataIn := if s.cfg.variant = .kpd then lastLevel .kdata s.kDataIn s.syncQ else s.kDataIn
        syncQ := [] }) ∧
  ∀ (s : State) (l : Level), s.started = true →
    performAll (hostDataEvents l) s =
      { s with
        dataIn := l
        kClockIn := if s.cfg.variant = .kpd then lastLevel .kclk s.kClockIn s.syncQ else s.kClockIn
        kDataIn := if s.cfg.variant = .kpd then lastLevel .kdata s.kDataIn s.syncQ else s.kDataIn
        syncQ := [] }

/-- R37, R80 item 3, R109: an inbound host level is seen by no read before the next `SYNC`, whatever events
come between, and by the read after it, unless a later change was queued. -/
def Obligations.InboundLevelIsSeenAfterSyncOnly : Prop :=
  ∀ (is : List Instr) (l : Level) (s : State), s.started = true → .sync ∉ is →
    (let s' := performAll (.inHdata l :: is) s
     (∃ t, answer .rdHdata s' = .value (if s.dataIn = true then 0 else 1) t) ∧
     ((∀ l', .inHdata l' ∉ is) →
       ∃ t, answer .rdHdata (perform .sync s') = .value (if l = true then 0 else 1) t))

/-- R25, R80 item 2: every actual change of an outward line is in the trace exactly once with its new level,
and nothing else is: between two notifications of one line the levels alternate, and the last one is the
level the line has. Every step keeps it. -/
def Obligations.StepKeepsExactlyOneNotificationPerChange : Prop :=
  ∀ s t : State, s.Inv → (s.started = true → s.TraceOk) → step s = .next t →
    (t.started = true → t.TraceOk)

/-- R25, R36: every step keeps the observations in the order of their times, none later than now. -/
def Obligations.StepKeepsTheTraceInTimeOrder : Prop :=
  ∀ s t : State, s.Inv → (s.started = true → s.TimesOk) → step s = .next t →
    (t.started = true → t.TimesOk)

/-- R25: after device start the trace only grows at its end: what was shown stays shown. -/
def Obligations.TraceOnlyGrows : Prop :=
  ∀ s t : State, s.started = true → step s = .next t → t.started = true ∧ ∃ shown, t.trace = s.trace ++ shown

/-- R35: a second write of the same level to any output role changes nothing. -/
def Obligations.WritesAreIdempotent : Prop :=
  ∀ (s t : State) (k : Idx) (l : Level),
    ∀ i ∈ [Instr.wrRow k l, .wrWdog l, .wrHclk l, .wrHdata l, .wrKdata l],
      exec i s = .next t → exec i t = .next t

/-- R35: a read changes nothing but the trace, and read twice in a row it returns the same value. -/
def Obligations.ReadsAreIdempotent : Prop :=
  ∀ (s t : State) (v : Mask) (k : Idx),
    ∀ i ∈ [Instr.rdCols, .rdHdata, .rdDirect k, .rdKclk, .rdKdata],
      answer i s = .value v t →
      (∃ o, t = { s with trace := s.trace ++ [o] }) ∧ ∃ u, answer i t = .value v u

/-- R17, R46: on KBD no step touches a field of the keypad link. (R17 says that these fields do not exist on
KBD; that they stand in State there, and that `SYNC` passes over a queued entry of a keypad line, is the
model's choice: log 7.) -/
def Obligations.KeyboardNeverTouchesTheKeypadLink : Prop :=
  ∀ s t : State, s.cfg.variant = .kbd → step s = .next t →
    t.kClockIn = s.kClockIn ∧ t.kDataIn = s.kDataIn ∧ t.kDataOut = s.kDataOut

/-- R59, R80 item 4, R94: the sub-blocks keep apart. Matrix events change no watchdog or link field, link
events no matrix or watchdog field, watchdog events no matrix or link field; the two links' own events
do not change each other's levels; and after device start nothing but an inbound change and `SYNC` touches
the queue (R22; the `RESET` of device start empties it). -/
def Obligations.SubBlocksKeepApart : Prop :=
  ∀ (s t : State) (k : Idx) (l : Level) (m : Mask) (d : Delta) (i : Instr), exec i s = .next t →
    (i ∈ [.wrRow k l, .rdCols, .rdDirect k, .envKeyrow k m, .envDirect k l, .wrHclk l, .wrHdata l,
        .rdHdata, .inHdata l, .sync, .wrKdata l, .rdKclk, .rdKdata, .inKclk l, .inKdata l] →
      t.wdLine = s.wdLine ∧ t.wdState = s.wdState ∧ t.resetAsserted = s.resetAsserted ∧
        t.longDeadline = s.longDeadline ∧ t.shortDeadline = s.shortDeadline ∧ t.now = s.now) ∧
    (i ∈ [.wrWdog l, .advance d, .wrHclk l, .wrHdata l, .rdHdata, .inHdata l, .sync, .wrKdata l,
        .rdKclk, .rdKdata, .inKclk l, .inKdata l] →
      t.rowDrive = s.rowDrive ∧ t.keyState = s.keyState ∧ t.direct = s.direct) ∧
    (i ∈ [.wrRow k l, .rdCols, .rdDirect k, .envKeyrow k m, .envDirect k l, .wrWdog l, .advance d,
        .wrKdata l, .rdKclk, .rdKdata, .inKclk l, .inKdata l] →
      t.clockOut = s.clockOut ∧ t.dataOut = s.dataOut ∧ t.dataIn = s.dataIn) ∧
    (i ∈ [.wrRow k l, .rdCols, .rdDirect k, .envKeyrow k m, .envDirect k l, .wrWdog l, .advance d,
        .wrHclk l, .wrHdata l, .rdHdata, .inHdata l] →
      t.kClockIn = s.kClockIn ∧ t.kDataIn = s.kDataIn ∧ t.kDataOut = s.kDataOut) ∧
    (i ∈ [.wrRow k l, .rdCols, .rdDirect k, .envKeyrow k m, .envDirect k l, .wrWdog l, .advance d,
        .wrHclk l, .wrHdata l, .rdHdata, .wrKdata l, .rdKclk, .rdKdata] → t.syncQ = s.syncQ) ∧
    (s.started = true → i ≠ .sync → (∀ l, i ≠ .inHdata l ∧ i ≠ .inKclk l ∧ i ≠ .inKdata l) →
      t.syncQ = s.syncQ)

/-- R23: after device start only `ADVANCE` changes the time, by exactly its increment, so time never goes
back. -/
def Obligations.OnlyAdvanceMovesTime : Prop :=
  ∀ (i : Instr) (s t : State), s.Inv → s.started = true → exec i s = .next t →
    (∀ d, i = .advance d → t.now = s.now + d.toNat) ∧ ((∀ d, i ≠ .advance d) → t.now = s.now)

/-! ### Pins, pseudo-instructions, instances -/

/-- R82: a physical pin write performs exactly the write roles of the pin, each once and with the level
written, in the canonical order: the rows first, then `HCLK`, `HDATA_O`, `KDATA_O` and `WDOG`; a pin with no
write role is a write the block ignores. R31: a port instruction writes its pins in ascending order, with no
other event between. (That a row the block does not have is no write role, and that a `KDATA_O` the entry
names on KBD is performed and refused while the others go on, is the model's choice: log 12.) -/
def Obligations.PinWritePerformsEachRoleOnce : Prop :=
  (∀ (c : Config) (p : PhysPin) (l : Level),
    (pinWriteEvents c p l).Nodup ∧
    List.Sublist (pinWriteEvents c p l)
      ((List.range c.rows).map (fun r => Instr.wrRow (BitVec.ofNat 8 r) l) ++
        [.wrHclk l, .wrHdata l, .wrKdata l, .wrWdog l]) ∧
    (∀ r < c.rows, .wrRow (BitVec.ofNat 8 r) l ∈ pinWriteEvents c p l ↔ .row r ∈ pinRoles c p) ∧
    (.wrHclk l ∈ pinWriteEvents c p l ↔ .hclk ∈ pinRoles c p) ∧
    (.wrHdata l ∈ pinWriteEvents c p l ↔ .hdataO ∈ pinRoles c p) ∧
    (.wrKdata l ∈ pinWriteEvents c p l ↔ .kdataO ∈ pinRoles c p) ∧
    (.wrWdog l ∈ pinWriteEvents c p l ↔ .wdog ∈ pinRoles c p)) ∧
  (∀ (s : State) (p : PhysPin) (l : Level), s.started = true →
    ∃ (v : Mask) (s2 s3 s4 : State),
      (∀ j < 9, v.getLsbD j =
        if j < s.cfg.rows ∧ .row j ∈ pinRoles s.cfg p then l else s.rowDrive.getLsbD j) ∧
      (let s1 : State := { s with rowDrive := v }
       if .hclk ∈ pinRoles s.cfg p then exec (.wrHclk l) s1 = .next s2 else s2 = s1) ∧
      (if .hdataO ∈ pinRoles s.cfg p then exec (.wrHdata l) s2 = .next s3 else s3 = s2) ∧
      (if .kdataO ∈ pinRoles s.cfg p then exec (.wrKdata l) s3 = .next s4 else s4 = s3) ∧
      (if .wdog ∈ pinRoles s.cfg p then exec (.wrWdog l) s4 = .next (handlePinWrite p l s)
       else handlePinWrite p l s = s4)) ∧
  (∀ (s : State) (p : PhysPin) (l : Level),
    (∀ r ∈ pinRoles s.cfg p, (∀ i < s.cfg.rows, r ≠ .row i) ∧
      r ≠ .hclk ∧ r ≠ .hdataO ∧ r ≠ .kdataO ∧ r ≠ .wdog) →
    handlePinWrite p l s = s) ∧
  ∀ (s : State) (pins : List (PhysPin × Level)),
    ∃ ascending : List (PhysPin × Level), ascending.Perm pins ∧
      ascending.Pairwise (fun a b => a.1 ≤ b.1) ∧
      portWrite pins s = ascending.foldl (fun s e => handlePinWrite e.1 e.2 s) s

/-- R30, R83: the roles of a physical pin are those of its `PINMAP` entry (on KPD but for `WDOG`, which R86
places); a read of the pin returns the value of the entry's read role: a bit of the column read, the host's
level, a direct input, or a level of the chained keyboard, each as the role's own read event gives and
shows it; a pin with no read role is refused with `RANGE`. (The model's choices, log 12: the first read role
of an entry that the block has is the one read; on KBD the keypad's two are none, so that a pin with no other
is refused with `RANGE`; a column's pin shows the `READ` of all the columns and returns its bit; on KPD
`KPD_WDOG_PIN` alone places `WDOG`.) -/
def Obligations.PinReadReturnsItsRole : Prop :=
  (∀ (c : Config) (p : PhysPin),
    let entry : List Role := (c.pinMap.lookup p).getD []
    let isRead : Role → Prop := fun r =>
      (∃ j < c.cols, r = .col j) ∨ r = .hdataI ∨ (∃ k < c.nd, r = .direct k) ∨
        (c.variant = .kpd ∧ (r = .kclkI ∨ r = .kdataI))
    (c.variant = .kbd → pinRoles c p = entry) ∧
    (c.variant = .kpd → ∀ r, r ∈ pinRoles c p ↔ if r = .wdog then p = c.kpdWdogPin else r ∈ entry) ∧
    (∀ r, pinReadRole c p = some r ↔
      ∃ before after, entry = before ++ r :: after ∧ isRead r ∧ ∀ q ∈ before, ¬ isRead q) ∧
    (pinReadRole c p = none ↔ ∀ r ∈ entry, ¬ isRead r)) ∧
  ∀ (s : State) (p : PhysPin),
    (pinReadRole s.cfg p = none → handlePinRead p s = .refused .range) ∧
    (∀ j, s.started = true → pinReadRole s.cfg p = some (.col j) →
      handlePinRead p s =
        .value (if s.columns.getLsbD j = true then 1 else 0)
          { s with trace := s.trace ++ [⟨s.now, .read .cols 0 s.columns⟩] }) ∧
    (s.started = true → pinReadRole s.cfg p = some .hdataI →
      (let v : Mask := if s.dataIn = true then 0 else 1
       handlePinRead p s = .value v { s with trace := s.trace ++ [⟨s.now, .read .hdata 0 v⟩] })) ∧
    (∀ k l, s.started = true → s.cfg.wf = true → s.direct[k]? = some l →
      pinReadRole s.cfg p = some (.direct k) →
      (let v : Mask := if (l != s.cfg.directInvert) = true then 1 else 0
       handlePinRead p s =
        .value v { s with trace := s.trace ++ [⟨s.now, .read .direct (BitVec.ofNat 8 k) v⟩] })) ∧
    (s.started = true → pinReadRole s.cfg p = some .kclkI →
      (let v : Mask := if (s.kClockIn != s.cfg.kinInvert) = true then 1 else 0
       handlePinRead p s = .value v { s with trace := s.trace ++ [⟨s.now, .read .kclk 0 v⟩] })) ∧
    (s.started = true → pinReadRole s.cfg p = some .kdataI →
      (let v : Mask := if (s.kDataIn != s.cfg.kinInvert) = true then 1 else 0
       handlePinRead p s = .value v { s with trace := s.trace ++ [⟨s.now, .read .kdata 0 v⟩] }))

/-- R86: on the keypad the supervised line is on the pin `KPD_WDOG_PIN`, whichever that is, and on no
other. (That `KPD_WDOG_PIN` places it whatever the `PINMAP` given lists is read from R86 by the model:
log 12.) -/
def Obligations.KeypadWatchdogPinIsTheParameter : Prop :=
  ∀ (c : Config) (p : PhysPin), c.variant = .kpd → (Role.wdog ∈ pinRoles c p ↔ p = c.kpdWdogPin)

/-- R50: `ROWS P` leaves the row drive at the pattern, and changes nothing else. -/
def Obligations.RowsSetsTheWholePattern : Prop :=
  ∀ (s : State) (p : Mask), s.started = true →
    ∃ v : Mask, performAll (rowsEvents s.cfg p) s = { s with rowDrive := v } ∧
      ∀ j < 9, v.getLsbD j = if j < s.cfg.rows then p.getLsbD j else s.rowDrive.getLsbD j

/-- R50, R43: `WAIT d`, for any natural `d`, is one passage of `d` microseconds under TIMER_FIRST; under
EVENT_FIRST it is for every `d` whose expansion does not end in an `ADVANCE 0` after other passages (the
rules' pseudocode does not give it there: log 9). -/
def Obligations.WaitIsOnePassageOfTime : Prop :=
  ∀ (s : State) (d : Nat), s.started = true →
    (s.cfg.tieOrder = .timerFirst ∨ d % 0xFFFFFF ≠ 0 ∨ d = 0) →
    performAll (waitEvents d) s = s.advanceBy d

/-- R38, R87, R105: a step of one instance is its own step and changes no other instance, and the common
synchronization point is `SYNC` at every instance, whatever its configuration. (The model's choices, log 14:
an instance that stops stays as it is; the common `SYNC` is applied beside the instances' own event
sequences, so it takes no word of any and advances no position.) -/
def Obligations.InstancesShareNothing : Prop :=
  ∀ (y : System) (n m : Nat) (s : State), y.blocks[m]? = some s →
    (n ≠ m → (y.stepBlock n).blocks[m]? = some s) ∧
    (∀ t, step s = .next t → (y.stepBlock m).blocks[m]? = some t) ∧
    ((∀ t, step s ≠ .next t) → (y.stepBlock m).blocks[m]? = some s) ∧
    (y.stepBlock n).blocks.length = y.blocks.length ∧
    y.syncAll.blocks.length = y.blocks.length ∧
    (∃ t, exec .sync s = .next t ∧ y.syncAll.blocks[m]? = some t ∧ t.events = s.events ∧ t.pos = s.pos)
end

