-- ==== Sys2Proof/Laws/Decode.lean ====
section
/-! SUPPORT. Small lemmas about the decoder and the encoder: the table rows, the fields of an encoded
word, and admission against well-formedness. -/

namespace Sys2Proof

/-- The mnemonic of an event. -/
def Instr.opcode : Instr → Opcode
  | .reset => .reset
  | .wrRow _ _ => .wrRow
  | .wrWdog _ => .wrWdog
  | .wrHclk _ => .wrHclk
  | .wrHdata _ => .wrHdata
  | .wrKdata _ => .wrKdata
  | .rdCols => .rdCols
  | .rdHdata => .rdHdata
  | .rdDirect _ => .rdDirect
  | .rdKclk => .rdKclk
  | .rdKdata => .rdKdata
  | .inHdata _ => .inHdata
  | .inKclk _ => .inKclk
  | .inKdata _ => .inKdata
  | .envKeyrow _ _ => .envKeyrow
  | .envDirect _ _ => .envDirect
  | .sync => .sync
  | .advance _ => .advance

/-- No two rows of the opcode table share an operation. -/
theorem opcodeTable_pairwise : opcodeTable.Pairwise (fun a b => a.op ≠ b.op) := by decide

/-- Admission is well-formedness: `none` for exactly the events the configured block has. -/
theorem admission_eq_none_iff (c : Config) (i : Instr) :
    admission c i = none ↔ i.wellFormed c = true := by
  cases i <;> cases hv : c.variant <;>
    simp [admission, Instr.wellFormed, Instr.kpdOnly, Instr.inRange, rowCheck, directCheck,
      keyrowCheck, variantCheck, hv] <;> (try split) <;> simp_all

/-- A decoded event is one the configured block has. -/
theorem decode_ok_admission {c : Config} {w : Word} {i : Instr} (h : decode c w = .ok i) :
    admission c i = none := by
  unfold decode at h
  split at h
  · cases h
  · split at h
    · cases h
    · cases h; assumption

/-- Decoding is parsing and then admission. -/
theorem decode_eq_ok_iff (c : Config) (w : Word) (i : Instr) :
    decode c w = .ok i ↔ parseWord w = .ok i ∧ admission c i = none := by
  unfold decode
  cases h : parseWord w with
  | error r => simp
  | ok j =>
    cases ha : admission c j with
    | some r =>
      simp only [ha, Except.ok.injEq, reduceCtorEq, false_iff]
      rintro ⟨rfl, h⟩
      simp [ha] at h
    | none =>
      simp only [ha, Except.ok.injEq]
      constructor
      · rintro rfl; exact ⟨rfl, ha⟩
      · exact fun h => h.1

/-- A stored word is read back as it was (R32). -/
theorem bytesWord_wordBytes (w : Word) :
    bytesWord (w.extractLsb' 24 8) (w.extractLsb' 16 8) (w.extractLsb' 8 8) (w.extractLsb' 0 8) = w := by
  apply BitVec.eq_of_getLsbD_eq
  intro j hj
  simp only [bytesWord, BitVec.getLsbD_append, BitVec.getLsbD_extractLsb']
  split
  · simp_all
  · split
    · simp_all [show 8 + (j - 8) = j by omega]
    · split
      · simp_all [show 16 + (j - 8 - 8) = j by omega]
      · simp [show 24 + (j - 8 - 8 - 8) = j by omega]; omega

/-! ### The pieces of an encoded word -/

theorem opField_or (a b : Word) : opField (a ||| b) = opField a ||| opField b := by
  ext j hj; simp [opField]

theorem opField_idxBits (i : Idx) : opField (idxBits i) = 0 := by
  ext j hj
  simp [opField, idxBits]
  intro _ _ _
  exact BitVec.getLsbD_of_ge i (24 + j - 16) (by omega)

theorem opField_levelBit (l : Level) : opField (levelBit l) = 0 := by cases l <;> decide

theorem opField_setWidth {n : Nat} (h : n ≤ 24) (d : BitVec n) : opField (d.setWidth 32) = 0 := by
  ext j hj
  simp [opField]
  intro _
  exact BitVec.getLsbD_of_ge d (24 + j) (by omega)

theorem or_and_distrib (a b m : Word) : (a ||| b) &&& m = (a &&& m) ||| (b &&& m) := by
  ext j hj; simp [Bool.and_or_distrib_right]

theorem idxBits_and (i : Idx) {m : Word} (hm : ∀ j < 8, m.getLsbD (16 + j) = false) :
    idxBits i &&& m = 0 := by
  ext j hj
  simp [idxBits]
  intro h1 h2
  by_cases h3 : j < 24
  · have := hm (j - 16) (by omega)
    rw [show 16 + (j - 16) = j by omega] at this
    simpa [BitVec.getLsbD_eq_getElem hj] using this
  · have := BitVec.getLsbD_of_ge i (j - 16) (by omega)
    simp [this] at h2

theorem levelBit_and (l : Level) {m : Word} (hm : m.getLsbD 0 = false) : levelBit l &&& m = 0 := by
  ext j hj
  cases l
  · simp [levelBit]
  · simp [levelBit]
    rintro rfl
    simpa [BitVec.getLsbD_eq_getElem hj] using hm

theorem setWidth_and {n : Nat} (d : BitVec n) {m : Word} (hm : ∀ j < n, m.getLsbD j = false) :
    d.setWidth 32 &&& m = 0 := by
  ext j hj
  simp
  intro h
  by_cases h3 : j < n
  · simpa [BitVec.getLsbD_eq_getElem hj] using hm j h3
  · have := BitVec.getLsbD_of_ge d j (by omega)
    simp [this] at h

end Sys2Proof
end

