-- ==== Sys2Proof/Laws/State.lean ====
section
/-! SUPPORT. What each primitive update leaves in each field of the state: one lemma for each field and
update, so that no proof unfolds a record update. -/

namespace Sys2Proof.Machine.State

variable (s : State)

@[simp] theorem emit_cfg (k : ObsKind) : (s.emit k).cfg = s.cfg := rfl
@[simp] theorem emit_events (k : ObsKind) : (s.emit k).events = s.events := rfl
@[simp] theorem emit_pos (k : ObsKind) : (s.emit k).pos = s.pos := rfl
@[simp] theorem emit_rowDrive (k : ObsKind) : (s.emit k).rowDrive = s.rowDrive := rfl
@[simp] theorem emit_keyState (k : ObsKind) : (s.emit k).keyState = s.keyState := rfl
@[simp] theorem emit_direct (k : ObsKind) : (s.emit k).direct = s.direct := rfl
@[simp] theorem emit_clockOut (k : ObsKind) : (s.emit k).clockOut = s.clockOut := rfl
@[simp] theorem emit_dataOut (k : ObsKind) : (s.emit k).dataOut = s.dataOut := rfl
@[simp] theorem emit_dataIn (k : ObsKind) : (s.emit k).dataIn = s.dataIn := rfl
@[simp] theorem emit_kClockIn (k : ObsKind) : (s.emit k).kClockIn = s.kClockIn := rfl
@[simp] theorem emit_kDataIn (k : ObsKind) : (s.emit k).kDataIn = s.kDataIn := rfl
@[simp] theorem emit_kDataOut (k : ObsKind) : (s.emit k).kDataOut = s.kDataOut := rfl
@[simp] theorem emit_wdLine (k : ObsKind) : (s.emit k).wdLine = s.wdLine := rfl
@[simp] theorem emit_wdState (k : ObsKind) : (s.emit k).wdState = s.wdState := rfl
@[simp] theorem emit_resetAsserted (k : ObsKind) : (s.emit k).resetAsserted = s.resetAsserted := rfl
@[simp] theorem emit_longDeadline (k : ObsKind) : (s.emit k).longDeadline = s.longDeadline := rfl
@[simp] theorem emit_shortDeadline (k : ObsKind) : (s.emit k).shortDeadline = s.shortDeadline := rfl
@[simp] theorem emit_syncQ (k : ObsKind) : (s.emit k).syncQ = s.syncQ := rfl
@[simp] theorem emit_now (k : ObsKind) : (s.emit k).now = s.now := rfl
@[simp] theorem emit_started (k : ObsKind) : (s.emit k).started = s.started := rfl
@[simp] theorem emit_trace (k : ObsKind) : (s.emit k).trace = s.trace ++ [⟨s.now, k⟩] := rfl
@[simp] theorem emit_refused (k : ObsKind) : (s.emit k).refused = s.refused := rfl

@[simp] theorem refuse_cfg : (s.refuse).cfg = s.cfg := rfl
@[simp] theorem refuse_events : (s.refuse).events = s.events := rfl
@[simp] theorem refuse_pos : (s.refuse).pos = s.pos := rfl
@[simp] theorem refuse_rowDrive : (s.refuse).rowDrive = s.rowDrive := rfl
@[simp] theorem refuse_keyState : (s.refuse).keyState = s.keyState := rfl
@[simp] theorem refuse_direct : (s.refuse).direct = s.direct := rfl
@[simp] theorem refuse_clockOut : (s.refuse).clockOut = s.clockOut := rfl
@[simp] theorem refuse_dataOut : (s.refuse).dataOut = s.dataOut := rfl
@[simp] theorem refuse_dataIn : (s.refuse).dataIn = s.dataIn := rfl
@[simp] theorem refuse_kClockIn : (s.refuse).kClockIn = s.kClockIn := rfl
@[simp] theorem refuse_kDataIn : (s.refuse).kDataIn = s.kDataIn := rfl
@[simp] theorem refuse_kDataOut : (s.refuse).kDataOut = s.kDataOut := rfl
@[simp] theorem refuse_wdLine : (s.refuse).wdLine = s.wdLine := rfl
@[simp] theorem refuse_wdState : (s.refuse).wdState = s.wdState := rfl
@[simp] theorem refuse_resetAsserted : (s.refuse).resetAsserted = s.resetAsserted := rfl
@[simp] theorem refuse_longDeadline : (s.refuse).longDeadline = s.longDeadline := rfl
@[simp] theorem refuse_shortDeadline : (s.refuse).shortDeadline = s.shortDeadline := rfl
@[simp] theorem refuse_syncQ : (s.refuse).syncQ = s.syncQ := rfl
@[simp] theorem refuse_now : (s.refuse).now = s.now := rfl
@[simp] theorem refuse_started : (s.refuse).started = s.started := rfl
@[simp] theorem refuse_trace : (s.refuse).trace = s.trace := rfl
@[simp] theorem refuse_refused : (s.refuse).refused = true := rfl

@[simp] theorem armLong_cfg (t : Nat) : (s.armLong t).cfg = s.cfg := rfl
@[simp] theorem armLong_events (t : Nat) : (s.armLong t).events = s.events := rfl
@[simp] theorem armLong_pos (t : Nat) : (s.armLong t).pos = s.pos := rfl
@[simp] theorem armLong_rowDrive (t : Nat) : (s.armLong t).rowDrive = s.rowDrive := rfl
@[simp] theorem armLong_keyState (t : Nat) : (s.armLong t).keyState = s.keyState := rfl
@[simp] theorem armLong_direct (t : Nat) : (s.armLong t).direct = s.direct := rfl
@[simp] theorem armLong_clockOut (t : Nat) : (s.armLong t).clockOut = s.clockOut := rfl
@[simp] theorem armLong_dataOut (t : Nat) : (s.armLong t).dataOut = s.dataOut := rfl
@[simp] theorem armLong_dataIn (t : Nat) : (s.armLong t).dataIn = s.dataIn := rfl
@[simp] theorem armLong_kClockIn (t : Nat) : (s.armLong t).kClockIn = s.kClockIn := rfl
@[simp] theorem armLong_kDataIn (t : Nat) : (s.armLong t).kDataIn = s.kDataIn := rfl
@[simp] theorem armLong_kDataOut (t : Nat) : (s.armLong t).kDataOut = s.kDataOut := rfl
@[simp] theorem armLong_wdLine (t : Nat) : (s.armLong t).wdLine = s.wdLine := rfl
@[simp] theorem armLong_wdState (t : Nat) : (s.armLong t).wdState = s.wdState := rfl
@[simp] theorem armLong_resetAsserted (t : Nat) : (s.armLong t).resetAsserted = s.resetAsserted := rfl
@[simp] theorem armLong_longDeadline (t : Nat) : (s.armLong t).longDeadline = some t := rfl
@[simp] theorem armLong_shortDeadline (t : Nat) : (s.armLong t).shortDeadline = s.shortDeadline := rfl
@[simp] theorem armLong_syncQ (t : Nat) : (s.armLong t).syncQ = s.syncQ := rfl
@[simp] theorem armLong_now (t : Nat) : (s.armLong t).now = s.now := rfl
@[simp] theorem armLong_started (t : Nat) : (s.armLong t).started = s.started := rfl
@[simp] theorem armLong_trace (t : Nat) : (s.armLong t).trace = s.trace := rfl
@[simp] theorem armLong_refused (t : Nat) : (s.armLong t).refused = s.refused := rfl

@[simp] theorem defer_cfg (n : Line) (l : Level) : (s.defer n l).cfg = s.cfg := rfl
@[simp] theorem defer_events (n : Line) (l : Level) : (s.defer n l).events = s.events := rfl
@[simp] theorem defer_pos (n : Line) (l : Level) : (s.defer n l).pos = s.pos := rfl
@[simp] theorem defer_rowDrive (n : Line) (l : Level) : (s.defer n l).rowDrive = s.rowDrive := rfl
@[simp] theorem defer_keyState (n : Line) (l : Level) : (s.defer n l).keyState = s.keyState := rfl
@[simp] theorem defer_direct (n : Line) (l : Level) : (s.defer n l).direct = s.direct := rfl
@[simp] theorem defer_clockOut (n : Line) (l : Level) : (s.defer n l).clockOut = s.clockOut := rfl
@[simp] theorem defer_dataOut (n : Line) (l : Level) : (s.defer n l).dataOut = s.dataOut := rfl
@[simp] theorem defer_dataIn (n : Line) (l : Level) : (s.defer n l).dataIn = s.dataIn := rfl
@[simp] theorem defer_kClockIn (n : Line) (l : Level) : (s.defer n l).kClockIn = s.kClockIn := rfl
@[simp] theorem defer_kDataIn (n : Line) (l : Level) : (s.defer n l).kDataIn = s.kDataIn := rfl
@[simp] theorem defer_kDataOut (n : Line) (l : Level) : (s.defer n l).kDataOut = s.kDataOut := rfl
@[simp] theorem defer_wdLine (n : Line) (l : Level) : (s.defer n l).wdLine = s.wdLine := rfl
@[simp] theorem defer_wdState (n : Line) (l : Level) : (s.defer n l).wdState = s.wdState := rfl
@[simp] theorem defer_resetAsserted (n : Line) (l : Level) : (s.defer n l).resetAsserted = s.resetAsserted := rfl
@[simp] theorem defer_longDeadline (n : Line) (l : Level) : (s.defer n l).longDeadline = s.longDeadline := rfl
@[simp] theorem defer_shortDeadline (n : Line) (l : Level) : (s.defer n l).shortDeadline = s.shortDeadline := rfl
@[simp] theorem defer_syncQ (n : Line) (l : Level) : (s.defer n l).syncQ = s.syncQ ++ [(n, l)] := rfl
@[simp] theorem defer_now (n : Line) (l : Level) : (s.defer n l).now = s.now := rfl
@[simp] theorem defer_started (n : Line) (l : Level) : (s.defer n l).started = s.started := rfl
@[simp] theorem defer_trace (n : Line) (l : Level) : (s.defer n l).trace = s.trace := rfl
@[simp] theorem defer_refused (n : Line) (l : Level) : (s.defer n l).refused = s.refused := rfl

@[simp] theorem setNow_cfg (t : Nat) : (s.setNow t).cfg = s.cfg := rfl
@[simp] theorem setNow_events (t : Nat) : (s.setNow t).events = s.events := rfl
@[simp] theorem setNow_pos (t : Nat) : (s.setNow t).pos = s.pos := rfl
@[simp] theorem setNow_rowDrive (t : Nat) : (s.setNow t).rowDrive = s.rowDrive := rfl
@[simp] theorem setNow_keyState (t : Nat) : (s.setNow t).keyState = s.keyState := rfl
@[simp] theorem setNow_direct (t : Nat) : (s.setNow t).direct = s.direct := rfl
@[simp] theorem setNow_clockOut (t : Nat) : (s.setNow t).clockOut = s.clockOut := rfl
@[simp] theorem setNow_dataOut (t : Nat) : (s.setNow t).dataOut = s.dataOut := rfl
@[simp] theorem setNow_dataIn (t : Nat) : (s.setNow t).dataIn = s.dataIn := rfl
@[simp] theorem setNow_kClockIn (t : Nat) : (s.setNow t).kClockIn = s.kClockIn := rfl
@[simp] theorem setNow_kDataIn (t : Nat) : (s.setNow t).kDataIn = s.kDataIn := rfl
@[simp] theorem setNow_kDataOut (t : Nat) : (s.setNow t).kDataOut = s.kDataOut := rfl
@[simp] theorem setNow_wdLine (t : Nat) : (s.setNow t).wdLine = s.wdLine := rfl
@[simp] theorem setNow_wdState (t : Nat) : (s.setNow t).wdState = s.wdState := rfl
@[simp] theorem setNow_resetAsserted (t : Nat) : (s.setNow t).resetAsserted = s.resetAsserted := rfl
@[simp] theorem setNow_longDeadline (t : Nat) : (s.setNow t).longDeadline = s.longDeadline := rfl
@[simp] theorem setNow_shortDeadline (t : Nat) : (s.setNow t).shortDeadline = s.shortDeadline := rfl
@[simp] theorem setNow_syncQ (t : Nat) : (s.setNow t).syncQ = s.syncQ := rfl
@[simp] theorem setNow_now (t : Nat) : (s.setNow t).now = t := rfl
@[simp] theorem setNow_started (t : Nat) : (s.setNow t).started = s.started := rfl
@[simp] theorem setNow_trace (t : Nat) : (s.setNow t).trace = s.trace := rfl
@[simp] theorem setNow_refused (t : Nat) : (s.setNow t).refused = s.refused := rfl

@[simp] theorem longExpire_cfg (d : Nat) : (s.longExpire d).cfg = s.cfg := rfl
@[simp] theorem longExpire_events (d : Nat) : (s.longExpire d).events = s.events := rfl
@[simp] theorem longExpire_pos (d : Nat) : (s.longExpire d).pos = s.pos := rfl
@[simp] theorem longExpire_rowDrive (d : Nat) : (s.longExpire d).rowDrive = s.rowDrive := rfl
@[simp] theorem longExpire_keyState (d : Nat) : (s.longExpire d).keyState = s.keyState := rfl
@[simp] theorem longExpire_direct (d : Nat) : (s.longExpire d).direct = s.direct := rfl
@[simp] theorem longExpire_clockOut (d : Nat) : (s.longExpire d).clockOut = s.clockOut := rfl
@[simp] theorem longExpire_dataOut (d : Nat) : (s.longExpire d).dataOut = s.dataOut := rfl
@[simp] theorem longExpire_dataIn (d : Nat) : (s.longExpire d).dataIn = s.dataIn := rfl
@[simp] theorem longExpire_kClockIn (d : Nat) : (s.longExpire d).kClockIn = s.kClockIn := rfl
@[simp] theorem longExpire_kDataIn (d : Nat) : (s.longExpire d).kDataIn = s.kDataIn := rfl
@[simp] theorem longExpire_kDataOut (d : Nat) : (s.longExpire d).kDataOut = s.kDataOut := rfl
@[simp] theorem longExpire_wdLine (d : Nat) : (s.longExpire d).wdLine = s.wdLine := rfl
@[simp] theorem longExpire_wdState (d : Nat) : (s.longExpire d).wdState = .resetAsserted := rfl
@[simp] theorem longExpire_resetAsserted (d : Nat) : (s.longExpire d).resetAsserted = true := rfl
@[simp] theorem longExpire_longDeadline (d : Nat) : (s.longExpire d).longDeadline = none := rfl
@[simp] theorem longExpire_shortDeadline (d : Nat) : (s.longExpire d).shortDeadline = some (d + s.cfg.tShort) := rfl
@[simp] theorem longExpire_syncQ (d : Nat) : (s.longExpire d).syncQ = s.syncQ := rfl
@[simp] theorem longExpire_now (d : Nat) : (s.longExpire d).now = d := rfl
@[simp] theorem longExpire_started (d : Nat) : (s.longExpire d).started = s.started := rfl
@[simp] theorem longExpire_trace (d : Nat) : (s.longExpire d).trace = s.trace ++ [⟨d, .out .reset true⟩] := rfl
@[simp] theorem longExpire_refused (d : Nat) : (s.longExpire d).refused = s.refused := rfl

@[simp] theorem shortExpire_cfg (d : Nat) : (s.shortExpire d).cfg = s.cfg := rfl
@[simp] theorem shortExpire_events (d : Nat) : (s.shortExpire d).events = s.events := rfl
@[simp] theorem shortExpire_pos (d : Nat) : (s.shortExpire d).pos = s.pos := rfl
@[simp] theorem shortExpire_rowDrive (d : Nat) : (s.shortExpire d).rowDrive = s.rowDrive := rfl
@[simp] theorem shortExpire_keyState (d : Nat) : (s.shortExpire d).keyState = s.keyState := rfl
@[simp] theorem shortExpire_direct (d : Nat) : (s.shortExpire d).direct = s.direct := rfl
@[simp] theorem shortExpire_clockOut (d : Nat) : (s.shortExpire d).clockOut = s.clockOut := rfl
@[simp] theorem shortExpire_dataOut (d : Nat) : (s.shortExpire d).dataOut = s.dataOut := rfl
@[simp] theorem shortExpire_dataIn (d : Nat) : (s.shortExpire d).dataIn = s.dataIn := rfl
@[simp] theorem shortExpire_kClockIn (d : Nat) : (s.shortExpire d).kClockIn = s.kClockIn := rfl
@[simp] theorem shortExpire_kDataIn (d : Nat) : (s.shortExpire d).kDataIn = s.kDataIn := rfl
@[simp] theorem shortExpire_kDataOut (d : Nat) : (s.shortExpire d).kDataOut = s.kDataOut := rfl
@[simp] theorem shortExpire_wdLine (d : Nat) : (s.shortExpire d).wdLine = s.wdLine := rfl
@[simp] theorem shortExpire_wdState (d : Nat) : (s.shortExpire d).wdState = .armed := rfl
@[simp] theorem shortExpire_resetAsserted (d : Nat) : (s.shortExpire d).resetAsserted = false := rfl
@[simp] theorem shortExpire_longDeadline (d : Nat) : (s.shortExpire d).longDeadline = s.longDeadline := rfl
@[simp] theorem shortExpire_shortDeadline (d : Nat) : (s.shortExpire d).shortDeadline = none := rfl
@[simp] theorem shortExpire_syncQ (d : Nat) : (s.shortExpire d).syncQ = s.syncQ := rfl
@[simp] theorem shortExpire_now (d : Nat) : (s.shortExpire d).now = d := rfl
@[simp] theorem shortExpire_started (d : Nat) : (s.shortExpire d).started = s.started := rfl
@[simp] theorem shortExpire_trace (d : Nat) : (s.shortExpire d).trace = s.trace ++ [⟨d, .out .reset false⟩] := rfl
@[simp] theorem shortExpire_refused (d : Nat) : (s.shortExpire d).refused = s.refused := rfl

@[simp] theorem setRowDrive_cfg (i : Nat) (l : Level) : (s.setRowDrive i l).cfg = s.cfg := rfl
@[simp] theorem setRowDrive_events (i : Nat) (l : Level) : (s.setRowDrive i l).events = s.events := rfl
@[simp] theorem setRowDrive_pos (i : Nat) (l : Level) : (s.setRowDrive i l).pos = s.pos := rfl
@[simp] theorem setRowDrive_rowDrive (i : Nat) (l : Level) : (s.setRowDrive i l).rowDrive = setMaskBit s.rowDrive i l := rfl
@[simp] theorem setRowDrive_keyState (i : Nat) (l : Level) : (s.setRowDrive i l).keyState = s.keyState := rfl
@[simp] theorem setRowDrive_direct (i : Nat) (l : Level) : (s.setRowDrive i l).direct = s.direct := rfl
@[simp] theorem setRowDrive_clockOut (i : Nat) (l : Level) : (s.setRowDrive i l).clockOut = s.clockOut := rfl
@[simp] theorem setRowDrive_dataOut (i : Nat) (l : Level) : (s.setRowDrive i l).dataOut = s.dataOut := rfl
@[simp] theorem setRowDrive_dataIn (i : Nat) (l : Level) : (s.setRowDrive i l).dataIn = s.dataIn := rfl
@[simp] theorem setRowDrive_kClockIn (i : Nat) (l : Level) : (s.setRowDrive i l).kClockIn = s.kClockIn := rfl
@[simp] theorem setRowDrive_kDataIn (i : Nat) (l : Level) : (s.setRowDrive i l).kDataIn = s.kDataIn := rfl
@[simp] theorem setRowDrive_kDataOut (i : Nat) (l : Level) : (s.setRowDrive i l).kDataOut = s.kDataOut := rfl
@[simp] theorem setRowDrive_wdLine (i : Nat) (l : Level) : (s.setRowDrive i l).wdLine = s.wdLine := rfl
@[simp] theorem setRowDrive_wdState (i : Nat) (l : Level) : (s.setRowDrive i l).wdState = s.wdState := rfl
@[simp] theorem setRowDrive_resetAsserted (i : Nat) (l : Level) : (s.setRowDrive i l).resetAsserted = s.resetAsserted := rfl
@[simp] theorem setRowDrive_longDeadline (i : Nat) (l : Level) : (s.setRowDrive i l).longDeadline = s.longDeadline := rfl
@[simp] theorem setRowDrive_shortDeadline (i : Nat) (l : Level) : (s.setRowDrive i l).shortDeadline = s.shortDeadline := rfl
@[simp] theorem setRowDrive_syncQ (i : Nat) (l : Level) : (s.setRowDrive i l).syncQ = s.syncQ := rfl
@[simp] theorem setRowDrive_now (i : Nat) (l : Level) : (s.setRowDrive i l).now = s.now := rfl
@[simp] theorem setRowDrive_started (i : Nat) (l : Level) : (s.setRowDrive i l).started = s.started := rfl
@[simp] theorem setRowDrive_trace (i : Nat) (l : Level) : (s.setRowDrive i l).trace = s.trace := rfl
@[simp] theorem setRowDrive_refused (i : Nat) (l : Level) : (s.setRowDrive i l).refused = s.refused := rfl

@[simp] theorem setKeyRow_cfg (r : Nat) (m : Mask) : (s.setKeyRow r m).cfg = s.cfg := rfl
@[simp] theorem setKeyRow_events (r : Nat) (m : Mask) : (s.setKeyRow r m).events = s.events := rfl
@[simp] theorem setKeyRow_pos (r : Nat) (m : Mask) : (s.setKeyRow r m).pos = s.pos := rfl
@[simp] theorem setKeyRow_rowDrive (r : Nat) (m : Mask) : (s.setKeyRow r m).rowDrive = s.rowDrive := rfl
@[simp] theorem setKeyRow_keyState (r : Nat) (m : Mask) : (s.setKeyRow r m).keyState = s.keyState.set r m := rfl
@[simp] theorem setKeyRow_direct (r : Nat) (m : Mask) : (s.setKeyRow r m).direct = s.direct := rfl
@[simp] theorem setKeyRow_clockOut (r : Nat) (m : Mask) : (s.setKeyRow r m).clockOut = s.clockOut := rfl
@[simp] theorem setKeyRow_dataOut (r : Nat) (m : Mask) : (s.setKeyRow r m).dataOut = s.dataOut := rfl
@[simp] theorem setKeyRow_dataIn (r : Nat) (m : Mask) : (s.setKeyRow r m).dataIn = s.dataIn := rfl
@[simp] theorem setKeyRow_kClockIn (r : Nat) (m : Mask) : (s.setKeyRow r m).kClockIn = s.kClockIn := rfl
@[simp] theorem setKeyRow_kDataIn (r : Nat) (m : Mask) : (s.setKeyRow r m).kDataIn = s.kDataIn := rfl
@[simp] theorem setKeyRow_kDataOut (r : Nat) (m : Mask) : (s.setKeyRow r m).kDataOut = s.kDataOut := rfl
@[simp] theorem setKeyRow_wdLine (r : Nat) (m : Mask) : (s.setKeyRow r m).wdLine = s.wdLine := rfl
@[simp] theorem setKeyRow_wdState (r : Nat) (m : Mask) : (s.setKeyRow r m).wdState = s.wdState := rfl
@[simp] theorem setKeyRow_resetAsserted (r : Nat) (m : Mask) : (s.setKeyRow r m).resetAsserted = s.resetAsserted := rfl
@[simp] theorem setKeyRow_longDeadline (r : Nat) (m : Mask) : (s.setKeyRow r m).longDeadline = s.longDeadline := rfl
@[simp] theorem setKeyRow_shortDeadline (r : Nat) (m : Mask) : (s.setKeyRow r m).shortDeadline = s.shortDeadline := rfl
@[simp] theorem setKeyRow_syncQ (r : Nat) (m : Mask) : (s.setKeyRow r m).syncQ = s.syncQ := rfl
@[simp] theorem setKeyRow_now (r : Nat) (m : Mask) : (s.setKeyRow r m).now = s.now := rfl
@[simp] theorem setKeyRow_started (r : Nat) (m : Mask) : (s.setKeyRow r m).started = s.started := rfl
@[simp] theorem setKeyRow_trace (r : Nat) (m : Mask) : (s.setKeyRow r m).trace = s.trace := rfl
@[simp] theorem setKeyRow_refused (r : Nat) (m : Mask) : (s.setKeyRow r m).refused = s.refused := rfl

@[simp] theorem setDirect_cfg (k : Nat) (l : Level) : (s.setDirect k l).cfg = s.cfg := rfl
@[simp] theorem setDirect_events (k : Nat) (l : Level) : (s.setDirect k l).events = s.events := rfl
@[simp] theorem setDirect_pos (k : Nat) (l : Level) : (s.setDirect k l).pos = s.pos := rfl
@[simp] theorem setDirect_rowDrive (k : Nat) (l : Level) : (s.setDirect k l).rowDrive = s.rowDrive := rfl
@[simp] theorem setDirect_keyState (k : Nat) (l : Level) : (s.setDirect k l).keyState = s.keyState := rfl
@[simp] theorem setDirect_direct (k : Nat) (l : Level) : (s.setDirect k l).direct = s.direct.set k l := rfl
@[simp] theorem setDirect_clockOut (k : Nat) (l : Level) : (s.setDirect k l).clockOut = s.clockOut := rfl
@[simp] theorem setDirect_dataOut (k : Nat) (l : Level) : (s.setDirect k l).dataOut = s.dataOut := rfl
@[simp] theorem setDirect_dataIn (k : Nat) (l : Level) : (s.setDirect k l).dataIn = s.dataIn := rfl
@[simp] theorem setDirect_kClockIn (k : Nat) (l : Level) : (s.setDirect k l).kClockIn = s.kClockIn := rfl
@[simp] theorem setDirect_kDataIn (k : Nat) (l : Level) : (s.setDirect k l).kDataIn = s.kDataIn := rfl
@[simp] theorem setDirect_kDataOut (k : Nat) (l : Level) : (s.setDirect k l).kDataOut = s.kDataOut := rfl
@[simp] theorem setDirect_wdLine (k : Nat) (l : Level) : (s.setDirect k l).wdLine = s.wdLine := rfl
@[simp] theorem setDirect_wdState (k : Nat) (l : Level) : (s.setDirect k l).wdState = s.wdState := rfl
@[simp] theorem setDirect_resetAsserted (k : Nat) (l : Level) : (s.setDirect k l).resetAsserted = s.resetAsserted := rfl
@[simp] theorem setDirect_longDeadline (k : Nat) (l : Level) : (s.setDirect k l).longDeadline = s.longDeadline := rfl
@[simp] theorem setDirect_shortDeadline (k : Nat) (l : Level) : (s.setDirect k l).shortDeadline = s.shortDeadline := rfl
@[simp] theorem setDirect_syncQ (k : Nat) (l : Level) : (s.setDirect k l).syncQ = s.syncQ := rfl
@[simp] theorem setDirect_now (k : Nat) (l : Level) : (s.setDirect k l).now = s.now := rfl
@[simp] theorem setDirect_started (k : Nat) (l : Level) : (s.setDirect k l).started = s.started := rfl
@[simp] theorem setDirect_trace (k : Nat) (l : Level) : (s.setDirect k l).trace = s.trace := rfl
@[simp] theorem setDirect_refused (k : Nat) (l : Level) : (s.setDirect k l).refused = s.refused := rfl

@[simp] theorem fetched_cfg (r : List Word) : (s.fetched r).cfg = s.cfg := rfl
@[simp] theorem fetched_events (r : List Word) : (s.fetched r).events = r := rfl
@[simp] theorem fetched_pos (r : List Word) : (s.fetched r).pos = s.pos + 1 := rfl
@[simp] theorem fetched_rowDrive (r : List Word) : (s.fetched r).rowDrive = s.rowDrive := rfl
@[simp] theorem fetched_keyState (r : List Word) : (s.fetched r).keyState = s.keyState := rfl
@[simp] theorem fetched_direct (r : List Word) : (s.fetched r).direct = s.direct := rfl
@[simp] theorem fetched_clockOut (r : List Word) : (s.fetched r).clockOut = s.clockOut := rfl
@[simp] theorem fetched_dataOut (r : List Word) : (s.fetched r).dataOut = s.dataOut := rfl
@[simp] theorem fetched_dataIn (r : List Word) : (s.fetched r).dataIn = s.dataIn := rfl
@[simp] theorem fetched_kClockIn (r : List Word) : (s.fetched r).kClockIn = s.kClockIn := rfl
@[simp] theorem fetched_kDataIn (r : List Word) : (s.fetched r).kDataIn = s.kDataIn := rfl
@[simp] theorem fetched_kDataOut (r : List Word) : (s.fetched r).kDataOut = s.kDataOut := rfl
@[simp] theorem fetched_wdLine (r : List Word) : (s.fetched r).wdLine = s.wdLine := rfl
@[simp] theorem fetched_wdState (r : List Word) : (s.fetched r).wdState = s.wdState := rfl
@[simp] theorem fetched_resetAsserted (r : List Word) : (s.fetched r).resetAsserted = s.resetAsserted := rfl
@[simp] theorem fetched_longDeadline (r : List Word) : (s.fetched r).longDeadline = s.longDeadline := rfl
@[simp] theorem fetched_shortDeadline (r : List Word) : (s.fetched r).shortDeadline = s.shortDeadline := rfl
@[simp] theorem fetched_syncQ (r : List Word) : (s.fetched r).syncQ = s.syncQ := rfl
@[simp] theorem fetched_now (r : List Word) : (s.fetched r).now = s.now := rfl
@[simp] theorem fetched_started (r : List Word) : (s.fetched r).started = s.started := rfl
@[simp] theorem fetched_trace (r : List Word) : (s.fetched r).trace = s.trace := rfl
@[simp] theorem fetched_refused (r : List Word) : (s.fetched r).refused = s.refused := rfl

@[simp] theorem placeNext_cfg (w : Word) : (s.placeNext w).cfg = s.cfg := rfl
@[simp] theorem placeNext_events (w : Word) : (s.placeNext w).events = w :: s.events.drop 1 := rfl
@[simp] theorem placeNext_pos (w : Word) : (s.placeNext w).pos = s.pos := rfl
@[simp] theorem placeNext_rowDrive (w : Word) : (s.placeNext w).rowDrive = s.rowDrive := rfl
@[simp] theorem placeNext_keyState (w : Word) : (s.placeNext w).keyState = s.keyState := rfl
@[simp] theorem placeNext_direct (w : Word) : (s.placeNext w).direct = s.direct := rfl
@[simp] theorem placeNext_clockOut (w : Word) : (s.placeNext w).clockOut = s.clockOut := rfl
@[simp] theorem placeNext_dataOut (w : Word) : (s.placeNext w).dataOut = s.dataOut := rfl
@[simp] theorem placeNext_dataIn (w : Word) : (s.placeNext w).dataIn = s.dataIn := rfl
@[simp] theorem placeNext_kClockIn (w : Word) : (s.placeNext w).kClockIn = s.kClockIn := rfl
@[simp] theorem placeNext_kDataIn (w : Word) : (s.placeNext w).kDataIn = s.kDataIn := rfl
@[simp] theorem placeNext_kDataOut (w : Word) : (s.placeNext w).kDataOut = s.kDataOut := rfl
@[simp] theorem placeNext_wdLine (w : Word) : (s.placeNext w).wdLine = s.wdLine := rfl
@[simp] theorem placeNext_wdState (w : Word) : (s.placeNext w).wdState = s.wdState := rfl
@[simp] theorem placeNext_resetAsserted (w : Word) : (s.placeNext w).resetAsserted = s.resetAsserted := rfl
@[simp] theorem placeNext_longDeadline (w : Word) : (s.placeNext w).longDeadline = s.longDeadline := rfl
@[simp] theorem placeNext_shortDeadline (w : Word) : (s.placeNext w).shortDeadline = s.shortDeadline := rfl
@[simp] theorem placeNext_syncQ (w : Word) : (s.placeNext w).syncQ = s.syncQ := rfl
@[simp] theorem placeNext_now (w : Word) : (s.placeNext w).now = s.now := rfl
@[simp] theorem placeNext_started (w : Word) : (s.placeNext w).started = s.started := rfl
@[simp] theorem placeNext_trace (w : Word) : (s.placeNext w).trace = s.trace := rfl
@[simp] theorem placeNext_refused (w : Word) : (s.placeNext w).refused = s.refused := rfl

end Sys2Proof.Machine.State
end

