-- ==== Sys2Proof/Laws/Ops.lean ====
section
/-! SUPPORT. One lemma for each shared operation that says once what it can do: settling an answer, the
checks before a rule, a read event, the watchdog's two expiries, the firing procedure, the application of
a queued entry, the bits of a mask, and what the trace shows of a line. -/

namespace Sys2Proof.Machine

@[simp] theorem answer_state_done (s t : State) : (Answer.done t).state s = t := rfl
@[simp] theorem answer_state_value (s t : State) (v : Mask) : (Answer.value v t).state s = t := rfl
@[simp] theorem answer_state_refused (s : State) (r : RefusalReason) :
    (Answer.refused r).state s = s.refuse := rfl

/-- A settled answer is a next state, refused or not. -/
@[simp] theorem settle_eq (s : State) (a : Answer) : settle s a = .next (a.state s) := rfl

/-- An event's checks pass: its rule is performed. -/
theorem guarded_passes {check : Option RefusalReason} {f : State → Answer} {s : State}
    (hc : check = none) (hs : s.started = true) : guarded check f s = f s := by
  simp [guarded, hc, hs]

/-- An event's checks fail: the first reason is answered. -/
theorem guarded_fails {check : Option RefusalReason} {f : State → Answer} {s : State}
    {r : RefusalReason} (hc : check = some r) : guarded check f s = .refused r := by
  simp [guarded, hc]

/-- Before device start an admitted event is refused. -/
theorem guarded_not_started {check : Option RefusalReason} {f : State → Answer} {s : State}
    (hc : check = none) (hs : s.started = false) : guarded check f s = .refused .notStarted := by
  simp [guarded, hc, hs]

/-- Everything the checks can answer. -/
theorem guarded_cases (check : Option RefusalReason) (f : State → Answer) (s : State) :
    (check = none ∧ s.started = true ∧ guarded check f s = f s) ∨
    (∃ r, guarded check f s = .refused r) := by
  cases check with
  | some r => exact .inr ⟨r, rfl⟩
  | none => cases h : s.started <;> simp [guarded, h]

/-- A read leaves the state with one observation more, and returns the value observed. -/
theorem readEvent_eq (op : ReadOp) (idx : Idx) (v : Mask) (s : State) :
    readEvent op idx v s = .value v { s with trace := s.trace ++ [⟨s.now, .read op idx v⟩] } := rfl

/-- A deadline is due at a bound (R67). -/
abbrev Due (strict : Bool) (d bound : Nat) : Prop := if strict then d < bound else d ≤ bound

/-- Everything the firing procedure can do (R67): nothing is due; the long expiry fires, alone or with the
short expiry after it; or the short expiry fires. -/
theorem fireDue_cases (bound : Nat) (strict : Bool) (s : State) :
    (s.fireDue bound strict = s ∧ ∀ d, s.pendingDeadline = some d → ¬ Due strict d bound) ∨
    (∃ d, s.longDeadline = some d ∧ Due strict d bound ∧ ¬ Due strict (d + s.cfg.tShort) bound ∧
      s.fireDue bound strict = s.longExpire d) ∨
    (∃ d, s.longDeadline = some d ∧ Due strict d bound ∧ Due strict (d + s.cfg.tShort) bound ∧
      s.fireDue bound strict = (s.longExpire d).shortExpire (d + s.cfg.tShort)) ∨
    (∃ d, s.longDeadline = none ∧ s.shortDeadline = some d ∧ Due strict d bound ∧
      s.fireDue bound strict = s.shortExpire d) := by
  cases hl : s.longDeadline with
  | some d =>
    by_cases h : Due strict d bound
    · right
      by_cases h' : Due strict (d + s.cfg.tShort) bound
      · right; left
        exact ⟨d, rfl, h, h', by
          simp [State.fireDue, State.fireDueLoop, State.pendingDeadline, State.expire, hl, h, h']⟩
      · left
        exact ⟨d, rfl, h, h', by
          simp [State.fireDue, State.fireDueLoop, State.pendingDeadline, State.expire, hl, h, h']⟩
    · left
      simp [State.fireDue, State.fireDueLoop, State.pendingDeadline, hl, h]
  | none =>
    cases hs : s.shortDeadline with
    | none => left; simp [State.fireDue, State.fireDueLoop, State.pendingDeadline, hl, hs]
    | some d =>
      by_cases h : Due strict d bound
      · right; right; right
        exact ⟨d, rfl, rfl, h, by
          simp [State.fireDue, State.fireDueLoop, State.pendingDeadline, State.expire, hl, hs, h]⟩
      · left
        simp [State.fireDue, State.fireDueLoop, State.pendingDeadline, hl, hs, h]

@[simp] theorem lastLevel_nil (line : Line) (l : Level) : lastLevel line l [] = l := rfl

/-- The first entry of a queue gives the level before the rest of it. -/
theorem lastLevel_cons (line : Line) (l : Level) (e : Line × Level) (q : List (Line × Level)) :
    lastLevel line l (e :: q) = lastLevel line (if e.1 = line then e.2 else l) q := by
  by_cases h : e.1 = line
  · simp only [lastLevel, List.filter_cons, h, decide_true, if_true, List.map_cons]
    cases hq : (q.filter (fun e => e.1 = line)).map Prod.snd with
    | nil => simp
    | cons a as => simp [List.getLast?_cons]
  · simp [lastLevel, h]

/-- Applying one entry, field by field (R77). -/
theorem applyEntry_eq (s : State) (e : Line × Level) :
    s.applyEntry e =
      { s with
        dataIn := if e.1 = .hdata then e.2 else s.dataIn
        kClockIn := if s.cfg.variant = .kpd ∧ e.1 = .kclk then e.2 else s.kClockIn
        kDataIn := if s.cfg.variant = .kpd ∧ e.1 = .kdata then e.2 else s.kDataIn } := by
  obtain ⟨line, l⟩ := e
  cases s with
  | mk cfg _ _ _ _ _ _ _ dataIn kClockIn kDataIn _ _ _ _ _ _ _ _ _ _ _ =>
    cases line
    · by_cases h : dataIn = l <;> simp [State.applyEntry, levelChanges, h]
    · by_cases hv : cfg.variant = .kpd <;> by_cases h : kClockIn = l <;>
        simp [State.applyEntry, levelChanges, hv, h]
    · by_cases hv : cfg.variant = .kpd <;> by_cases h : kDataIn = l <;>
        simp [State.applyEntry, levelChanges, hv, h]

/-- A queue applied entry by entry, oldest first (R78). -/
theorem foldl_applyEntry (q : List (Line × Level)) (s : State) :
    q.foldl State.applyEntry s =
      { s with
        dataIn := lastLevel .hdata s.dataIn q
        kClockIn := if s.cfg.variant = .kpd then lastLevel .kclk s.kClockIn q else s.kClockIn
        kDataIn := if s.cfg.variant = .kpd then lastLevel .kdata s.kDataIn q else s.kDataIn } := by
  induction q generalizing s with
  | nil => simp
  | cons e q ih =>
    rw [List.foldl_cons, ih, applyEntry_eq]
    by_cases h : s.cfg.variant = .kpd <;> simp [lastLevel_cons, h]

/-- The bits of a mask with one bit written. -/
theorem getLsbD_setMaskBit (v : Mask) (i j : Nat) (l : Level) (hj : j < 9) :
    (setMaskBit v i l).getLsbD j = if j = i then l else v.getLsbD j := by
  have h1 : (1#9 <<< i).getLsbD j = decide (j = i) := by
    simp only [BitVec.getLsbD_shiftLeft, hj, decide_true, Bool.true_and, BitVec.getLsbD_one]
    by_cases h : j < i
    · simp [h, show j ≠ i by omega]
    · by_cases h' : j = i
      · simp [h']
      · simp [h, h', show j - i ≠ 0 by omega]
  cases l
  · simp only [setMaskBit, Bool.false_eq_true, if_false, BitVec.getLsbD_and, BitVec.getLsbD_not, h1, hj]
    by_cases h : j = i <;> simp [h]
  · simp only [setMaskBit, if_true, BitVec.getLsbD_or, h1]
    by_cases h : j = i <;> simp [h]

/-- What a longer trace shows of a line: the notifications of its parts, in order. -/
theorem notifications_append (line : OutLine) (xs ys : List Obs) :
    notifications line (xs ++ ys) = notifications line xs ++ notifications line ys := by
  simp [notifications]

@[simp] theorem notifications_nil (line : OutLine) : notifications line [] = [] := rfl

/-- A notification counts for its own line. -/
@[simp] theorem notifications_out (line k : OutLine) (t : Nat) (v : Level) (os : List Obs) :
    notifications line (⟨t, .out k v⟩ :: os) = (if k = line then [v] else []) ++ notifications line os := by
  by_cases h : k = line <;> simp [notifications, h]

/-- A read's observation counts for no line. -/
@[simp] theorem notifications_read (line : OutLine) (op : ReadOp) (idx : Idx) (v : Mask) (t : Nat)
    (os : List Obs) : notifications line (⟨t, .read op idx v⟩ :: os) = notifications line os := by
  simp [notifications]

/-- One more change: the levels still alternate, and lead to the new level. -/
theorem Alternates.snoc {a b c : Level} {ls : List Level} (h : Alternates a ls b) (hc : c ≠ b) :
    Alternates a (ls ++ [c]) c := by
  induction ls generalizing a with
  | nil =>
    have : a = b := h
    exact ⟨this ▸ hc, rfl⟩
  | cons l ls ih => exact ⟨h.1, ih h.2⟩

/-- An event's outcome is always a next state: the one `perform` gives (R95, R97). -/
theorem exec_eq_next (i : Instr) (s : State) : exec i s = .next (perform i s) := by cases i <;> rfl

end Sys2Proof.Machine
end

