-- ==== Sys2Proof/Laws/PerInstr.lean ====
section
/-! SUPPORT. Families of statements for every event, one lemma for each constructor. -/

namespace Sys2Proof.Laws.Encodes

/-- The event's word stands on its own row of the opcode table: the operation selects the row of the
event's mnemonic, and the reserved bits are those of the row's match word (R40, R44, R50). -/
def Statement (i : Instr) : Prop :=
  ∃ r, lookupOp (opField (encode i)) = some r ∧ r.opcode = i.opcode ∧ r.kpdOnly = i.kpdOnly ∧
    encode i &&& r.mask = r.matchWord

theorem reset : Statement .reset :=
  ⟨_, rfl, rfl, rfl, by decide⟩

theorem wrRow (i : Idx) (l : Level) : Statement (.wrRow i l) :=
  ⟨⟨0x01#8, 0xFF00FFFE#32, false, .wrRow⟩,
    by simp only [encode, opField_or, opField_idxBits, opField_levelBit]; decide, rfl, rfl,
    by simp only [encode, or_and_distrib, idxBits_and i (m := 0xFF00FFFE#32) (by decide),
      levelBit_and l (m := 0xFF00FFFE#32) (by decide)]; decide⟩

theorem wrWdog (l : Level) : Statement (.wrWdog l) :=
  by cases l <;> exact ⟨_, rfl, rfl, rfl, by decide⟩

theorem wrHclk (l : Level) : Statement (.wrHclk l) :=
  by cases l <;> exact ⟨_, rfl, rfl, rfl, by decide⟩

theorem wrHdata (l : Level) : Statement (.wrHdata l) :=
  by cases l <;> exact ⟨_, rfl, rfl, rfl, by decide⟩

theorem wrKdata (l : Level) : Statement (.wrKdata l) :=
  by cases l <;> exact ⟨_, rfl, rfl, rfl, by decide⟩

theorem rdCols : Statement .rdCols :=
  ⟨_, rfl, rfl, rfl, by decide⟩

theorem rdHdata : Statement .rdHdata :=
  ⟨_, rfl, rfl, rfl, by decide⟩

theorem rdDirect (k : Idx) : Statement (.rdDirect k) :=
  ⟨⟨0x12#8, 0xFF00FFFF#32, false, .rdDirect⟩,
    by simp only [encode, opField_or, opField_idxBits]; decide, rfl, rfl,
    by simp only [encode, or_and_distrib, idxBits_and k (m := 0xFF00FFFF#32) (by decide)]; decide⟩

theorem rdKclk : Statement .rdKclk :=
  ⟨_, rfl, rfl, rfl, by decide⟩

theorem rdKdata : Statement .rdKdata :=
  ⟨_, rfl, rfl, rfl, by decide⟩

theorem inHdata (l : Level) : Statement (.inHdata l) :=
  by cases l <;> exact ⟨_, rfl, rfl, rfl, by decide⟩

theorem inKclk (l : Level) : Statement (.inKclk l) :=
  by cases l <;> exact ⟨_, rfl, rfl, rfl, by decide⟩

theorem inKdata (l : Level) : Statement (.inKdata l) :=
  by cases l <;> exact ⟨_, rfl, rfl, rfl, by decide⟩

theorem envKeyrow (r : Idx) (m : Mask) : Statement (.envKeyrow r m) :=
  ⟨⟨0x30#8, 0xFF00FE00#32, false, .envKeyrow⟩,
    by simp only [encode, opField_or, opField_idxBits, opField_setWidth (n := 9) (by decide)]; decide, rfl, rfl,
    by simp only [encode, or_and_distrib, idxBits_and r (m := 0xFF00FE00#32) (by decide),
      setWidth_and m (m := 0xFF00FE00#32) (by decide)]; decide⟩

theorem envDirect (k : Idx) (l : Level) : Statement (.envDirect k l) :=
  ⟨⟨0x31#8, 0xFF00FFFE#32, false, .envDirect⟩,
    by simp only [encode, opField_or, opField_idxBits, opField_levelBit]; decide, rfl, rfl,
    by simp only [encode, or_and_distrib, idxBits_and k (m := 0xFF00FFFE#32) (by decide),
      levelBit_and l (m := 0xFF00FFFE#32) (by decide)]; decide⟩

theorem sync : Statement .sync :=
  ⟨_, rfl, rfl, rfl, by decide⟩

theorem advance (d : Delta) : Statement (.advance d) :=
  ⟨⟨0x41#8, 0xFF000000#32, false, .advance⟩,
    by simp only [encode, opField_or, opField_setWidth (n := 24) (by decide)]; decide, rfl, rfl,
    by simp only [encode, or_and_distrib, setWidth_and d (m := 0xFF000000#32) (by decide)]; decide⟩

end Sys2Proof.Laws.Encodes
end

