-- ==== Sys2Proof/Laws/Pins.lean ====
section
/-! SUPPORT. What a pin write expands to, and events performed one after another. -/

namespace Sys2Proof.Machine

@[simp] theorem performAll_nil (s : State) : performAll [] s = s := rfl

@[simp] theorem performAll_cons (i : Instr) (is : List Instr) (s : State) :
    performAll (i :: is) s = performAll is (perform i s) := rfl

theorem performAll_append (is js : List Instr) (s : State) :
    performAll (is ++ js) s = performAll js (performAll is s) := by
  simp [performAll]

/-- Two row indices of eight bits are the same word only when they are the same (R41). -/
theorem ofNat_idx_inj {a b : Nat} (ha : a < 256) (hb : b < 256) :
    BitVec.ofNat 8 a = BitVec.ofNat 8 b ↔ a = b := by
  constructor
  · intro h
    have := congrArg BitVec.toNat h
    simp only [BitVec.toNat_ofNat] at this
    omega
  · rintro rfl
    rfl

/-- No variant has more than nine rows. -/
theorem rows_le_nine (c : Config) : c.rows ≤ 9 := by
  unfold Config.rows
  split <;> omega

/-- The row writes of a list of row roles, kept where a pin carries the row. -/
theorem rowWriteEvents_eq (rs : List Nat) (roles : List Role) (l : Level) :
    ((rs.map Role.row).filter (fun r => decide (r ∈ roles))).filterMap (fun r => roleWriteEvent r l) =
      (rs.filter (fun r => decide (Role.row r ∈ roles))).map
        (fun r => Instr.wrRow (BitVec.ofNat 8 r) l) := by
  induction rs with
  | nil => rfl
  | cons a rs ih =>
    simp only [List.map_cons, List.filter_cons]
    by_cases h : Role.row a ∈ roles
    · simp only [h, decide_true, if_true, List.filterMap_cons, ih, List.map_cons]; rfl
    · simp [h, ih]

/-- Everything a pin write expands to (R82): its rows, then each of the other four write roles. -/
theorem pinWriteEvents_eq (c : Config) (p : PhysPin) (l : Level) :
    pinWriteEvents c p l =
      ((List.range c.rows).filter (fun r => decide (Role.row r ∈ pinRoles c p))).map
        (fun r => Instr.wrRow (BitVec.ofNat 8 r) l) ++
      (if Role.hclk ∈ pinRoles c p then [.wrHclk l] else []) ++
      (if Role.hdataO ∈ pinRoles c p then [.wrHdata l] else []) ++
      (if Role.kdataO ∈ pinRoles c p then [.wrKdata l] else []) ++
      (if Role.wdog ∈ pinRoles c p then [.wrWdog l] else []) := by
  unfold pinWriteEvents canonicalRoles
  rw [List.filter_append, List.filterMap_append, rowWriteEvents_eq]
  by_cases h1 : Role.hclk ∈ pinRoles c p <;> by_cases h2 : Role.hdataO ∈ pinRoles c p <;>
    by_cases h3 : Role.kdataO ∈ pinRoles c p <;> by_cases h4 : Role.wdog ∈ pinRoles c p <;>
    simp [h1, h2, h3, h4, roleWriteEvent]

end Sys2Proof.Machine
end

