-- ==== Sys2Proof/Laws/Step.lean ====
section
/-! SUPPORT. Everything a step can do: one inversion lemma for the step, and one for an event, from which
each statement about all steps is a case split over the events. -/

namespace Sys2Proof.Machine

/-- The state the rule of an event leaves when it is performed. -/
def ruleState (i : Instr) (s : State) : State :=
  match i with
  | .reset => s.startDevice
  | .wrRow r l => s.setRowDrive r.toNat l
  | .wrWdog l => s.writeWdog l
  | .wrHclk l => s.driveClock l
  | .wrHdata l => s.driveData l
  | .wrKdata l => s.driveKeyboardData l
  | .rdCols => s.emit (.read .cols 0 s.columns)
  | .rdHdata => s.emit (.read .hdata 0 (levelValue (!s.dataIn)))
  | .rdDirect k =>
    s.emit (.read .direct k (levelValue (presented s.cfg.directInvert (s.directLevel k.toNat))))
  | .rdKclk => s.emit (.read .kclk 0 (levelValue (presented s.cfg.kinInvert s.kClockIn)))
  | .rdKdata => s.emit (.read .kdata 0 (levelValue (presented s.cfg.kinInvert s.kDataIn)))
  | .inHdata l => s.defer .hdata l
  | .inKclk l => s.defer .kclk l
  | .inKdata l => s.defer .kdata l
  | .envKeyrow r m => s.setKeyRow r.toNat m
  | .envDirect k l => s.setDirect k.toNat l
  | .sync => s.synchronize
  | .advance d => s.advanceBy d.toNat

/-- The event may be performed now: `RESET` before device start, every other event after it, and only
events the configured block has. -/
def Performable (i : Instr) (s : State) : Prop :=
  admission s.cfg i = none ∧ (s.started = true ↔ i ≠ .reset)

/-- Every event but `RESET`, admitted and after device start, does what its rule says and is not
refused. -/
theorem answer_passes {i : Instr} {s : State} (h : i ≠ .reset) (ha : admission s.cfg i = none)
    (hs : s.started = true) : (answer i s).state s = ruleState i s ∧ ∀ r, answer i s ≠ .refused r := by
  cases i <;>
    simp_all [admission, answer, answerWrRow, answerWrWdog, answerWrHclk, answerWrHdata, answerWrKdata,
      answerRdCols, answerRdHdata, answerRdDirect, answerRdKclk, answerRdKdata, answerInHdata,
      answerInKclk, answerInKdata, answerEnvKeyrow, answerEnvDirect, answerSync, answerAdvance, guarded,
      readEvent, ruleState]

/-- An event the configured block does not have is refused for the reason admission gives. -/
theorem answer_not_admitted {i : Instr} {s : State} {r : RefusalReason}
    (ha : admission s.cfg i = some r) : answer i s = .refused r := by
  cases i <;>
    simp_all [admission, answer, answerWrRow, answerWrKdata, answerRdDirect, answerRdKclk, answerRdKdata,
      answerInKclk, answerInKdata, answerEnvKeyrow, answerEnvDirect, guarded]

/-- Before device start an admitted event but `RESET` is refused. -/
theorem answer_not_started {i : Instr} {s : State} (h : i ≠ .reset) (ha : admission s.cfg i = none)
    (hs : s.started = false) : answer i s = .refused .notStarted := by
  cases i <;>
    simp_all [admission, answer, answerWrRow, answerWrWdog, answerWrHclk, answerWrHdata, answerWrKdata,
      answerRdCols, answerRdHdata, answerRdDirect, answerRdKclk, answerRdKdata, answerInHdata,
      answerInKclk, answerInKdata, answerEnvKeyrow, answerEnvDirect, answerSync, answerAdvance, guarded]

/-- A performable event does what its rule says. -/
theorem perform_performable {i : Instr} {s : State} (h : Performable i s) :
    perform i s = ruleState i s := by
  obtain ⟨ha, hs⟩ := h
  by_cases hi : i = .reset
  · subst hi
    have : s.started = false := by simpa using hs
    simp [perform, answer, answerReset, this, ruleState]
  · exact (answer_passes hi ha (hs.2 hi)).1

/-- Any other event is refused. -/
theorem perform_not_performable {i : Instr} {s : State} (h : ¬ Performable i s) :
    perform i s = s.refuse := by
  unfold perform
  cases ha : admission s.cfg i with
  | some r => rw [answer_not_admitted ha]; rfl
  | none =>
    by_cases hi : i = .reset
    · subst hi
      have : s.started = true := by simpa [Performable, admission] using h
      simp [answer, answerReset, this]
    · rw [answer_not_started hi ha (by simpa [Performable, ha, hi] using h)]
      rfl

/-- Everything an event can do. -/
theorem perform_cases (i : Instr) (s : State) :
    (Performable i s ∧ perform i s = ruleState i s) ∨
    (¬ Performable i s ∧ perform i s = s.refuse) := by
  by_cases h : Performable i s
  · exact .inl ⟨h, perform_performable h⟩
  · exact .inr ⟨h, perform_not_performable h⟩

/-- A word's answer leaves what its event does, or the mark of a refusal. -/
theorem wordAnswer_state (w : Word) (s : State) :
    (wordAnswer w s).state s =
      match decode s.cfg w with
      | .error _ => s.refuse
      | .ok i => perform i s := by
  unfold wordAnswer
  cases decode s.cfg w <;> rfl

/-- Applying a word settles its answer. -/
theorem runWord_eq_next (w : Word) (s : State) : runWord w s = .next ((wordAnswer w s).state s) := by
  rw [wordAnswer_state]
  unfold runWord
  cases decode s.cfg w with
  | error r => rfl
  | ok i => exact exec_eq_next i s

/-- Everything a step can do: take the next word and settle its answer. -/
theorem step_next_iff (s t : State) :
    step s = .next t ↔
      ∃ w rest, s.events = w :: rest ∧ t = (wordAnswer w (s.fetched rest)).state (s.fetched rest) := by
  unfold step stepEvent
  cases he : s.events with
  | nil => simp
  | cons w rest =>
    simp only [runWord_eq_next, Host.Outcome.next.injEq, List.cons.injEq]
    constructor
    · rintro rfl; exact ⟨w, rest, ⟨rfl, rfl⟩, rfl⟩
    · rintro ⟨w', rest', ⟨rfl, rfl⟩, rfl⟩; rfl

/-- The same, by the event: a step refuses the word, or performs the rule of the event it decodes to, or
refuses that event. -/
theorem step_cases {s t : State} (h : step s = .next t) :
    ∃ w rest, s.events = w :: rest ∧
      ((t = (s.fetched rest).refuse) ∨
       ∃ i, decode s.cfg w = .ok i ∧ Performable i (s.fetched rest) ∧ t = ruleState i (s.fetched rest)) := by
  obtain ⟨w, rest, he, rfl⟩ := (step_next_iff s t).mp h
  refine ⟨w, rest, he, ?_⟩
  rw [wordAnswer_state]
  simp only [State.fetched_cfg]
  cases hd : decode s.cfg w with
  | error r => exact .inl rfl
  | ok i =>
    rcases perform_cases i (s.fetched rest) with ⟨hp, h⟩ | ⟨_, h⟩
    · exact .inr ⟨i, rfl, hp, h⟩
    · exact .inl h

end Sys2Proof.Machine
end

