-- ==== Sys2Proof/Machine/Assembly.lean ====
section
/-! DEFINITION. The assembly notation of R50: one event a line, the mnemonic, then its operands separated
by commas; numbers are decimal, `0x` hexadecimal or `0b` binary; `;` starts a comment. The spec says
nothing of text that is not of these forms: the assembler gives nothing for it (log 13). -/

namespace Sys2Proof.Machine

/-- White space within a line. -/
def isBlank (c : Char) : Bool := c = ' ' || c = '\t'

/-- The line without its comment. -/
def dropComment (cs : List Char) : List Char := cs.takeWhile (fun c => c ≠ ';')

/-- The characters without white space at either end. -/
def trimBlank (cs : List Char) : List Char :=
  ((cs.dropWhile isBlank).reverse.dropWhile isBlank).reverse

/-- The value of a digit, if it is one in the base. -/
def digitValue (base : Nat) (c : Char) : Option Nat :=
  let n := c.toNat
  let v :=
    if 48 ≤ n ∧ n ≤ 57 then n - 48
    else if 65 ≤ n ∧ n ≤ 70 then n - 55
    else if 97 ≤ n ∧ n ≤ 102 then n - 87
    else base
  if v < base then some v else none

/-- The number the digits write in the base, most significant digit first, from the value `acc` of the
digits before them. -/
def digitsValue (base : Nat) : Nat → List Char → Option Nat
  | acc, [] => some acc
  | acc, c :: cs =>
    match digitValue base c with
    | some v => digitsValue base (acc * base + v) cs
    | none => none

/-- A number: at least one digit, in the base its first characters name. -/
def numberValue (cs : List Char) : Option Nat :=
  match cs with
  | '0' :: 'x' :: c :: rest => digitsValue 16 0 (c :: rest)
  | '0' :: 'b' :: c :: rest => digitsValue 2 0 (c :: rest)
  | c :: rest => digitsValue 10 0 (c :: rest)
  | [] => none

/-- The text cut at every comma. -/
def splitCommas : List Char → List (List Char)
  | [] => [[]]
  | c :: cs =>
    if c = ',' then [] :: splitCommas cs
    else
      match splitCommas cs with
      | [] => [[c]]
      | w :: ws => (c :: w) :: ws

/-- The numbers of a list of operand texts, if each is one. -/
def numberList : List (List Char) → Option (List Nat)
  | [] => some []
  | t :: ts =>
    match numberValue (trimBlank t), numberList ts with
    | some n, some ns => some (n :: ns)
    | _, _ => none

/-- The operands of a line, after its mnemonic. -/
def operandList (cs : List Char) : Option (List Nat) :=
  if (trimBlank cs).isEmpty then some [] else numberList (splitCommas cs)

/-- A level operand: 0 or 1. -/
def levelOperand (n : Nat) : Option Level :=
  if n = 0 then some false else if n = 1 then some true else none

/-- An operand that fits its field of `w` bits. -/
def fieldOperand (w n : Nat) : Option (BitVec w) := if n < 2 ^ w then some (BitVec.ofNat w n) else none

/-- A form with one level. -/
def withLevel (f : Level → Instr) (ns : List Nat) : Option (List Instr) :=
  match ns with
  | [l] => (levelOperand l).map (fun l => [f l])
  | _ => none

/-- A form with an index and a level. -/
def withIdxLevel (f : Idx → Level → Instr) (ns : List Nat) : Option (List Instr) :=
  match ns with
  | [i, l] =>
    match fieldOperand 8 i, levelOperand l with
    | some i, some l => some [f i l]
    | _, _ => none
  | _ => none

/-- A form with no operand. -/
def withNone (is : List Instr) (ns : List Nat) : Option (List Instr) := if ns.isEmpty then some is else none

/-- The events of one mnemonic with its operands: the forms of R50, then its pseudo-instructions. -/
def assembleForm (c : Config) (mnemonic : List Char) (ns : List Nat) : Option (List Instr) :=
  if mnemonic = "RESET".toList then withNone [.reset] ns
  else if mnemonic = "WR_ROW".toList then withIdxLevel .wrRow ns
  else if mnemonic = "WR_WDOG".toList then withLevel .wrWdog ns
  else if mnemonic = "WR_HCLK".toList then withLevel .wrHclk ns
  else if mnemonic = "WR_HDATA".toList then withLevel .wrHdata ns
  else if mnemonic = "WR_KDATA".toList then withLevel .wrKdata ns
  else if mnemonic = "RD_COLS".toList then withNone [.rdCols] ns
  else if mnemonic = "RD_HDATA".toList then withNone [.rdHdata] ns
  else if mnemonic = "RD_DIRECT".toList then
    match ns with
    | [k] => (fieldOperand 8 k).map (fun k => [.rdDirect k])
    | _ => none
  else if mnemonic = "RD_KCLK".toList then withNone [.rdKclk] ns
  else if mnemonic = "RD_KDATA".toList then withNone [.rdKdata] ns
  else if mnemonic = "IN_HDATA".toList then withLevel .inHdata ns
  else if mnemonic = "IN_KCLK".toList then withLevel .inKclk ns
  else if mnemonic = "IN_KDATA".toList then withLevel .inKdata ns
  else if mnemonic = "ENV_KEYROW".toList then
    match ns with
    | [r, m] =>
      match fieldOperand 8 r, fieldOperand 9 m with
      | some r, some m => some [.envKeyrow r m]
      | _, _ => none
    | _ => none
  else if mnemonic = "ENV_DIRECT".toList then withIdxLevel .envDirect ns
  else if mnemonic = "SYNC".toList then withNone [.sync] ns
  else if mnemonic = "ADVANCE".toList then
    match ns with
    | [d] => (fieldOperand 24 d).map (fun d => [.advance d])
    | _ => none
  else if mnemonic = "ROWS".toList then
    match ns with
    | [p] => if p < 2 ^ c.rows then (fieldOperand 9 p).map (rowsEvents c) else none
    | _ => none
  else if mnemonic = "FEED".toList then withNone feedEvents ns
  else if mnemonic = "WAIT".toList then
    match ns with
    | [d] => some (waitEvents d)
    | _ => none
  else if mnemonic = "PIN".toList then
    match ns with
    | [p, l] => (levelOperand l).map (pinWriteEvents c p)
    | _ => none
  else if mnemonic = "HOSTDATA".toList then
    match ns with
    | [l] => (levelOperand l).map hostDataEvents
    | _ => none
  else none

/-- The events of one line; a line with nothing but a comment has none. -/
def assembleLine (c : Config) (cs : List Char) : Option (List Instr) :=
  let t := trimBlank (dropComment cs)
  if t.isEmpty then some []
  else
    match operandList (t.dropWhile (fun x => !isBlank x)) with
    | some ns => assembleForm c (t.takeWhile (fun x => !isBlank x)) ns
    | none => none

/-- The event words of a text, line by line. -/
def assemble (c : Config) : List (List Char) → Option (List Word)
  | [] => some []
  | line :: rest =>
    match assembleLine c line, assemble c rest with
    | some is, some ws => some (is.map encode ++ ws)
    | _, _ => none

end Sys2Proof.Machine
end

