-- ==== Sys2Proof/Tests/Slice0.lean ====
section
/-! SUPPORT. Tests, each against the spec's own words, examples and vectors (95_test_vectors.md), and a
witness for the hypotheses of each obligation. -/

open Sys2Proof Sys2Proof.Machine

namespace Sys2Proof.Tests

/-! ### Small states -/

/-- The keyboard at device start, with two direct inputs. -/
def kb : State := State.afterStart (Config.standard .kbd 2)

/-- The keyboard at device start, with as many direct inputs as R5 admits. -/
def kb16 : State := State.afterStart (Config.standard .kbd 16)

/-- The keypad at device start. -/
def kp : State := State.afterStart Config.keypad

/-- The keyboard before device start. -/
def pre : State := State.preStart (Config.standard .kbd 2)

/-- The keyboard under the other tie order. -/
def late : State := { kb with cfg := { kb.cfg with tieOrder := .eventFirst } }

/-- The long timer counts: the falling edge of vector WD-2 has been. -/
def counting (s : State) : State := { s with wdState := .countingLong, longDeadline := some 56000 }

/-- The reset pulse runs: the end of vector WD-3. -/
def pulsing (s : State) : State :=
  { s with wdState := .resetAsserted, resetAsserted := true, shortDeadline := some 61600, now := 56000 }

/-- The keypad with a pin for each role a read has, and one that doubles a row and the supervised line. -/
def pinned : State :=
  { kp with
    cfg :=
      { Config.keypad with
        pinMap := [(0, [.row 1, .hclk, .hdataO, .kdataO]), (1, [.col 2]), (2, [.hdataI]), (3, [.direct 2])] ++
          [(4, [.kclkI]), (5, [.kdataI])] } }

/-- What holds of the next state, when there is one. -/
def nextIs {α : Type} [DecidableEq α] (f : State → α) (v : α) (o : Host.Outcome State Fault Refusal) : Bool :=
  match o with
  | .next t => decide (f t = v)
  | .fault _ => false
  | .refused _ => false

/-! ### Well-formedness -/

theorem test_wf_variant : (Instr.wrKdata true).wellFormed Config.keyboard = false := by decide
theorem test_wf_row : (Instr.wrRow 9 true).wellFormed Config.keyboard = false := by decide
theorem test_wf_row_kpd : (Instr.wrRow 3 true).wellFormed Config.keypad = false := by decide
theorem test_wf_direct_read : (Instr.rdDirect 3).wellFormed Config.keypad = false := by decide
theorem test_wf_direct_env : (Instr.envDirect 2 true).wellFormed kb.cfg = false := by decide
theorem test_wf_keyrow_index : (Instr.envKeyrow 9 0).wellFormed Config.keyboard = false := by decide
theorem test_wf_keyrow_mask : (Instr.envKeyrow 0 8).wellFormed Config.keypad = false := by decide
theorem test_wf_last : (Instr.envKeyrow 8 0x1FF).wellFormed Config.keyboard = true := by decide
theorem test_config_long : ({ Config.keypad with tLong := 0 } : Config).wf = false := by decide
theorem test_config_short : ({ Config.keypad with tShort := 0 } : Config).wf = false := by decide
theorem test_config_inputs : (Config.standard .kbd 17).wf = false := by decide
theorem test_config_rows : ({ Config.keypad with keys0 := [7, 7] } : Config).wf = false := by decide
theorem test_config_mask : ({ Config.keypad with keys0 := [7, 8, 7] } : Config).wf = false := by decide
theorem test_config_direct : ({ Config.keypad with direct0 := [true] } : Config).wf = false := by decide

/-! ### Decoding, word by word from the forms of R50 -/

theorem test_decode_reset : decode Config.keypad 0x00000000#32 = .ok .reset := by decide
theorem test_decode_wrRow : decode Config.keyboard 0x01080001#32 = .ok (.wrRow 8 true) := by decide
theorem test_decode_wrWdog : decode Config.keypad 0x02000001#32 = .ok (.wrWdog true) := by decide
theorem test_decode_wrHclk : decode Config.keypad 0x03000000#32 = .ok (.wrHclk false) := by decide
theorem test_decode_wrHdata : decode Config.keypad 0x04000001#32 = .ok (.wrHdata true) := by decide
theorem test_decode_wrKdata : decode Config.keypad 0x05000000#32 = .ok (.wrKdata false) := by decide
theorem test_decode_rdCols : decode Config.keypad 0x10000000#32 = .ok .rdCols := by decide
theorem test_decode_rdHdata : decode Config.keypad 0x11000000#32 = .ok .rdHdata := by decide
theorem test_decode_rdDirect : decode Config.keypad 0x12020000#32 = .ok (.rdDirect 2) := by decide
theorem test_decode_rdKclk : decode Config.keypad 0x13000000#32 = .ok .rdKclk := by decide
theorem test_decode_rdKdata : decode Config.keypad 0x14000000#32 = .ok .rdKdata := by decide
theorem test_decode_inHdata : decode Config.keypad 0x20000001#32 = .ok (.inHdata true) := by decide
theorem test_decode_inKclk : decode Config.keypad 0x21000000#32 = .ok (.inKclk false) := by decide
theorem test_decode_inKdata : decode Config.keypad 0x22000001#32 = .ok (.inKdata true) := by decide
theorem test_decode_envKeyrow :
    decode Config.keyboard 0x300101FB#32 = .ok (.envKeyrow 1 0x1FB) := by decide
theorem test_decode_envDirect : decode Config.keypad 0x31020001#32 = .ok (.envDirect 2 true) := by decide
theorem test_decode_sync : decode Config.keypad 0x40000000#32 = .ok .sync := by decide
theorem test_decode_advance : decode Config.keypad 0x4100F0A0#32 = .ok (.advance 61600) := by decide

/-- CT-3, HL-11, KP-1, MX-10. -/
theorem test_decode_refusals :
    decode kb.cfg 0x06000000#32 = .error .badOp ∧ decode kb.cfg 0x04000002#32 = .error .reservedBits ∧
    decode kb.cfg 0x05000000#32 = .error .variant ∧ decode kb.cfg 0x01090000#32 = .error .range := by
  decide

/-- CT-6: `RESERVED_BITS` comes before `VARIANT` (R99). -/
theorem test_decode_order : decode kb.cfg 0x13000001#32 = .error .reservedBits := by decide

/-- R32: the first stored byte is the most significant one. -/
theorem test_bytes :
    decodeBytes [0x41#8, 0x00#8, 0xF0#8, 0xA0#8, 0x99#8] = .ok (.advance 61600, [0x99#8]) := by decide

theorem test_bytes_truncated : decodeBytes [0x41#8, 0x00#8, 0xF0#8] = .error .truncated := by decide

theorem test_table_word : decodeTableWord 32 0x4100F0A0 = some (.advance 61600) := by decide

/-! ### Meanings -/

/-- CT-2 and R27. -/
theorem test_reset_starts :
    nextIs (fun t => (t.started, t.rowDrive, t.now, t.trace)) (true, 0x1FF, 0, []) (exec .reset pre) = true := by
  decide
theorem test_reset_again : answer .reset kb = .refused .restart := by decide

/-- MX-15. -/
theorem test_wrRow : nextIs (fun t => (t.rowDrive, t.trace)) (0x1EF, []) (exec (.wrRow 4 false) kb) = true := by
  decide
/-- P2, step 6. -/
theorem test_wrRow_release :
    nextIs State.rowDrive 0x1FF (exec (.wrRow 0 true) { kb with rowDrive := 0x1FE }) = true := by decide

/-- MX-4. -/
theorem test_rdCols :
    nextIs State.trace [⟨0, .read .cols 0 0x005⟩]
      (exec .rdCols { kb with rowDrive := 0x1FC, keyState := [0x1FE, 0x1FB] ++ List.replicate 7 0x1FF }) =
      true := by decide
/-- MX-5. -/
theorem test_rdCols_undriven :
    nextIs State.trace [⟨0, .read .cols 0 0x000⟩]
      (exec .rdCols { kb with rowDrive := 0x1FE, keyState := [0x1FF, 0] ++ List.replicate 7 0x1FF }) =
      true := by decide

/-- MX-13, with both polarities. -/
theorem test_rdDirect :
    nextIs State.trace [⟨0, .read .direct 1 0⟩] (exec (.rdDirect 1) { kp with direct := [true, false, true] }) =
      true := by decide
theorem test_rdDirect_inverted :
    nextIs State.trace [⟨0, .read .direct 1 1⟩]
      (exec (.rdDirect 1)
        { kp with direct := [true, false, true], cfg := { Config.keypad with directInvert := true } }) =
      true := by decide

/-- MX-16, its first event. -/
theorem test_envKeyrow :
    nextIs (fun t => t.keyState.head?) (some 0x0FF) (exec (.envKeyrow 0 0x0FF) kb) = true := by decide
/-- R57. -/
theorem test_envDirect :
    nextIs State.direct [true, true, false] (exec (.envDirect 2 false) kp) = true := by decide

/-- WD-2. -/
theorem test_wrWdog_falling :
    nextIs (fun t => (t.wdState, t.longDeadline, t.wdLine)) (.countingLong, some 56000, false)
      (exec (.wrWdog false) kb) = true := by decide
/-- WD-5, the retrigger at 30000. -/
theorem test_wrWdog_retrigger :
    nextIs State.longDeadline (some 86000) (exec (.wrWdog false) { counting kb with now := 30000 }) =
      true := by decide

/-- WD-4. -/
theorem test_advance_both :
    nextIs (fun t => (t.trace, t.wdState, t.now))
      ([⟨56000, .out .reset true⟩, ⟨61600, .out .reset false⟩], .armed, 61600)
      (exec (.advance 61600) (counting kb)) = true := by decide
/-- WD-10: under `EVENT_FIRST` the deadline 56000 is still pending at 56000. -/
theorem test_advance_tie :
    nextIs (fun t => (t.trace, t.longDeadline)) ([], some 56000) (exec (.advance 56000) (counting late)) =
      true := by decide

/-- HL-1, its first and second event. -/
theorem test_wrHclk : nextIs State.trace [⟨0, .out .hclk false⟩] (exec (.wrHclk false) kb) = true := by decide
theorem test_wrHclk_same :
    nextIs State.trace [] (exec (.wrHclk false) { kb with clockOut := false }) = true := by decide
/-- HL-2 and HL-3. -/
theorem test_wrHdata : nextIs State.trace [⟨0, .out .hdata false⟩] (exec (.wrHdata false) kb) = true := by
  decide
theorem test_wrHdata_same : nextIs State.trace [] (exec (.wrHdata true) kb) = true := by decide
/-- HL-5, and HL-6 after its `SYNC`. -/
theorem test_rdHdata : nextIs State.trace [⟨0, .read .hdata 0 0⟩] (exec .rdHdata kb) = true := by decide
theorem test_rdHdata_low :
    nextIs State.trace [⟨0, .read .hdata 0 1⟩] (exec .rdHdata { kb with dataIn := false }) = true := by decide
/-- HL-12. -/
theorem test_inHdata :
    nextIs (fun t => (t.syncQ, t.dataIn)) ([(.hdata, false)], true) (exec (.inHdata false) kb) = true := by
  decide
/-- HL-7: the last entry of a line wins. -/
theorem test_sync_last :
    nextIs (fun t => (t.dataIn, t.syncQ)) (false, [])
      (exec .sync { kb with syncQ := [(.hdata, false), (.hdata, true), (.hdata, false)] }) = true := by decide
/-- KP-5: both links at the one `SYNC`. -/
theorem test_sync_both :
    nextIs (fun t => (t.kDataIn, t.dataIn, t.kClockIn)) (false, false, true)
      (exec .sync { kp with syncQ := [(.kdata, false), (.hdata, false)] }) = true := by decide

/-- KP-2. -/
theorem test_wrKdata : nextIs State.trace [⟨0, .out .kdata false⟩] (exec (.wrKdata false) kp) = true := by
  decide
/-- KP-3, with both polarities. -/
theorem test_rdKclk : nextIs State.trace [⟨0, .read .kclk 0 0⟩] (exec .rdKclk kp) = true := by decide
theorem test_rdKclk_plain :
    nextIs State.trace [⟨0, .read .kclk 0 1⟩]
      (exec .rdKclk { kp with cfg := { Config.keypad with kinInvert := false } }) = true := by decide
/-- KP-5, its first read: the clock line is not the data line. -/
theorem test_rdKdata :
    nextIs State.trace [⟨0, .read .kdata 0 1⟩] (exec .rdKdata { kp with kDataIn := false }) = true := by decide
/-- P4, steps 2 and 3. -/
theorem test_inKdata : nextIs State.syncQ [(.kdata, false)] (exec (.inKdata false) kp) = true := by decide
theorem test_inKclk :
    nextIs State.syncQ [(.kdata, false), (.kclk, false)]
      (exec (.inKclk false) { kp with syncQ := [(.kdata, false)] }) = true := by decide

/-- CT-1. -/
theorem test_not_started : wordAnswer 0x03000000#32 pre = .refused .notStarted := by decide
/-- P5, step 3: the refused word leaves the mark and nothing else. -/
theorem test_refused_step :
    nextIs (fun t => t) { kb with refused := true, pos := 2 } (step { kb with events := [0x05000000#32] }) =
      true := by decide
theorem test_fetch :
    nextIs State.wdLine false (step (State.reset.withFetchWord 32 0x02000000)) = true := by decide

/-! ### Pins and the notation -/

/-- R82: the canonical order, and R86: the supervised line on `KPD_WDOG_PIN`. -/
theorem test_pin_write :
    pinWriteEvents pinned.cfg 0 false =
      [.wrRow 1 false, .wrHclk false, .wrHdata false, .wrKdata false, .wrWdog false] := by decide
/-- R83. -/
theorem test_pin_read_none : handlePinRead 9 pinned = .refused .range := by decide
/-- The model's choice (log 12): on KBD a pin whose only read role is the keypad's is refused with `RANGE`. -/
theorem test_pin_read_keyboard :
    handlePinRead 4 { kb with cfg := { kb.cfg with pinMap := [(4, [.kclkI])] } } = .refused .range := by decide
/-- R31: ascending pin order. -/
theorem test_port_write :
    (portWrite [(7, true), (0, false)] pinned).wdState = .countingLong := by decide
/-- R50, with WD-4's word. -/
theorem test_assemble_advance :
    assemble Config.keypad ["ADVANCE 61600 ; both expiries".toList] = some [0x4100F0A0#32] := by decide
theorem test_assemble_rows :
    assemble Config.keypad ["ROWS 0b110".toList] =
      some [0x01000000#32, 0x01010001#32, 0x01020001#32] := by decide
theorem test_wait : waitEvents 0x1000001 = [.advance 0xFFFFFF, .advance 2] := by decide

/-- R37, R105: the common synchronization point reaches every instance. -/
theorem test_instances :
    (System.mk [{ kb with syncQ := [(.hdata, false)] }, { kp with syncQ := [(.kclk, false)] }]).syncAll =
      ⟨[{ kb with dataIn := false }, { kp with kClockIn := false }]⟩ := by decide

/-! ### Witnesses: states and operands that meet the hypotheses of the obligations, each clause at a
boundary -/

theorem widths_kb : kb.WidthsOk := by unfold State.WidthsOk; decide

theorem inv_kb : kb.Inv := by
  refine ⟨by decide, fun _ => ⟨⟨fun _ => ⟨rfl, rfl, rfl⟩, nofun, nofun⟩, fun _ _ h => ?_, widths_kb⟩⟩
  rcases h with h | h <;> cases h

theorem inv_counting : (counting kb).Inv := by
  refine ⟨by decide, fun _ => ⟨⟨nofun, fun _ => ⟨⟨56000, rfl, by decide⟩, rfl, rfl⟩, nofun⟩, fun _ _ h => ?_,
    widths_kb⟩⟩
  rcases h with h | h <;> cases h
  decide

theorem inv_counting_late (n : Nat) (hn : n ≤ 56000) : State.Inv { counting late with now := n } :=
  ⟨show late.cfg.wf = true by decide,
    fun _ => ⟨⟨nofun, fun _ => ⟨⟨56000, rfl, hn⟩, rfl, rfl⟩, nofun⟩, nofun, widths_kb⟩⟩

theorem inv_pulsing_late (n : Nat) (hn : n ≤ 61600) : State.Inv { pulsing late with now := n } :=
  ⟨show late.cfg.wf = true by decide,
    fun _ => ⟨⟨nofun, nofun, fun _ => ⟨rfl, ⟨61600, rfl, hn⟩, rfl⟩⟩, nofun, widths_kb⟩⟩

theorem inv_pulsing : (pulsing kb).Inv := by
  refine ⟨by decide, fun _ => ⟨⟨nofun, nofun, fun _ => ⟨rfl, ⟨61600, rfl, by decide⟩, rfl⟩⟩, fun _ _ h => ?_,
    widths_kb⟩⟩
  rcases h with h | h <;> cases h
  decide

theorem traceOk_kb : kb.TraceOk ∧ kb.TimesOk := by
  refine ⟨⟨rfl, rfl, nofun, fun _ => rfl, rfl⟩, ?_⟩
  exact ⟨List.Pairwise.nil, by decide⟩

theorem witness_DecodeOfEncode :
    (Instr.rdDirect 15).wellFormed kb16.cfg = true ∧ (Instr.wrRow 2 true).wellFormed kp.cfg = true ∧
    (Instr.envKeyrow 2 7).wellFormed kp.cfg = true ∧ (Instr.wrKdata true).wellFormed kp.cfg = true := by
  decide

theorem witness_EncodeOfDecode : decode kb16.cfg 0x310F0001#32 = .ok (.envDirect 15 true) := by decide

/-- Both ends of each range. -/
theorem witness_UnassignedOpsAreBadOp :
    ∀ w ∈ ([0x06000000#32, 0x0FFFFFFF#32, 0x15000000#32, 0x1FFFFFFF#32, 0x23000000#32, 0x2FFFFFFF#32,
      0x32000000#32, 0x3FFFFFFF#32, 0x42000000#32, 0xFFFFFFFF#32] : List Word),
    let op := (w >>> 24).toNat
    (0x06 ≤ op ∧ op ≤ 0x0F) ∨ (0x15 ≤ op ∧ op ≤ 0x1F) ∨ (0x23 ≤ op ∧ op ≤ 0x2F) ∨ (0x32 ≤ op ∧ op ≤ 0x3F) ∨
      0x42 ≤ op := by simp

/-- The lowest reserved bit of a row of each shape. -/
theorem witness_ReservedBitsAreRefused :
    ∀ q ∈ ([((0x00000000#32, 0xFFFFFFFF#32), 0x00000001#32), ((0x01000000#32, 0xFF00FFFE#32), 0x01000002#32),
      ((0x02000000#32, 0xFFFFFFFE#32), 0x02000002#32), ((0x12000000#32, 0xFF00FFFF#32), 0x12000001#32),
      ((0x30000000#32, 0xFF00FE00#32), 0x30000200#32)] : List ((Word × Word) × Word)),
    q.2 &&& 0xFF000000#32 = q.1.1 ∧ q.2 &&& q.1.2 ≠ q.1.1 := by simp

/-- The lowest mask bit the keypad does not have. -/
theorem witness_ReservedBitsAreRefused_keypad :
    kp.cfg.variant = .kpd ∧ 0x30000008#32 &&& 0xFF00FE00#32 = 0x30000000#32 ∧
    0x30000008#32 &&& 0x000001F8#32 ≠ 0 := by decide

theorem witness_KeypadEventsRefusedOnKeyboard : kb.cfg.variant = .kbd := by decide

theorem witness_OutOfRangeOperandsRefused :
    kb.cfg.rows ≤ (9 : Idx).toNat ∧ kp.cfg.rows ≤ (3 : Idx).toNat ∧ kb.cfg.nd ≤ (2 : Idx).toNat ∧
    kp.cfg.nd ≤ (3 : Idx).toNat ∧ 2 ^ kp.cfg.cols ≤ (8 : Mask).toNat := by decide

theorem witness_StepRunsTheDecodedEvent :
    State.events { kb with events := [0x40000000#32] } = [0x40000000#32] ∧
    decode kb.cfg 0x40000000#32 = .ok .sync := by decide

theorem witness_StepRefusesAnUndecodableWord :
    State.events { kb with events := [0x06000000#32] } = [0x06000000#32] ∧
    decode kb.cfg 0x06000000#32 = .error .badOp := by decide

theorem witness_WordsAreRefusedExactlyAsR85Says :
    wordAnswer 0x06000000#32 kb = .refused .badOp ∧ wordAnswer 0x40000000#32 pre = .refused .notStarted ∧
    wordAnswer 0x00000000#32 kb = .refused .restart := by decide

/-- `StepTakesExactlyOneEvent`, `LaterEventsAreNotSeen`, `RefusalMarkIsSticky` and `TraceOnlyGrows`: a
performed event and a refused one. -/
theorem witness_step_next :
    kb.started = true ∧
    (∃ t, step { kb with events := [0x40000000#32] } = .next t) ∧
    (∃ t, step { kb with events := [0x06000000#32] } = .next t) := ⟨rfl, ⟨_, rfl⟩, ⟨_, rfl⟩⟩

theorem witness_NoEventStopsTheMachine :
    State.events { kb with events := [0x06000000#32] } ≠ [] ∧ kb.events = [] := by decide

theorem witness_ResetFollowsR84 : pre.started = false ∧ kb.started = true := by decide

theorem witness_DeviceStartSetsEveryField :
    State.started { pre with events := [0x00000000#32] } = false ∧
    State.events { pre with events := [0x00000000#32] } = [0x00000000#32] := by decide

theorem witness_WrRowFollowsR53 :
    0x01000002#32 &&& 0xFF000000#32 = 0x01000000#32 ∧ 0x01000002#32 &&& 0xFF00FFFE#32 ≠ 0x01000000#32 ∧
    kb.cfg.rows ≤ (9 : Idx).toNat ∧ kb.started = true ∧ (8 : Idx).toNat < kb.cfg.rows := by decide

theorem witness_RdColsFollowsR54 :
    0x10000001#32 &&& 0xFF000000#32 = 0x10000000#32 ∧ kb.started = true := by decide

theorem witness_RdDirectFollowsR55 :
    kb16.cfg.nd ≤ (16 : Idx).toNat ∧ kb16.started = true ∧ (15 : Idx).toNat < kb16.cfg.nd ∧
    kb16.direct[(15 : Idx).toNat]? = some true := by decide

theorem witness_EnvKeyrowFollowsR56 :
    kb.cfg.rows ≤ (9 : Idx).toNat ∧ 2 ^ kp.cfg.cols ≤ (8 : Mask).toNat ∧ kp.started = true ∧
    (2 : Idx).toNat < kp.cfg.rows ∧ (7 : Mask).toNat < 2 ^ kp.cfg.cols ∧
    kp.keyState.length = kp.cfg.rows ∧
    ∀ i < kp.cfg.rows, (3 : Mask).getLsbD i = false ↔ i = (2 : Idx).toNat := by decide

theorem witness_EnvDirectFollowsR57 :
    kp.cfg.nd ≤ (3 : Idx).toNat ∧ kp.started = true ∧ (2 : Idx).toNat < kp.cfg.nd ∧
    kp.direct.length = kp.cfg.nd := by decide

theorem witness_UndrivenRowsNeverInfluenceTheColumns :
    ∀ i < 3, (6 : Mask).getLsbD i = false → (fun _ => 7 : Nat → Mask) i =
      (fun j => if j = 0 then 7 else 0 : Nat → Mask) i := by decide

theorem witness_WrWdogFollowsR60 :
    kb.started = true ∧ kb.wdLine = true ∧ kb.wdState = .armed ∧ (counting kb).wdState = .countingLong ∧
    (pulsing kb).wdState = .resetAsserted ∧ ¬ (kb.wdLine = true ∧ true = false) := by decide

/-- Each side of each deadline, under both tie orders. -/
theorem witness_AdvanceFiresTheDueDeadlines :
    kb.Inv ∧ (counting kb).Inv ∧ (counting late).Inv ∧ (pulsing kb).Inv ∧
    ¬ (counting kb).Reaches 55999 56000 ∧ (counting kb).Reaches 56000 56000 ∧
    ¬ (counting kb).Reaches 61599 61600 ∧ (counting kb).Reaches 61600 61600 ∧
    ¬ (counting late).Reaches 56000 56000 ∧ (counting late).Reaches 56001 56000 ∧
    ¬ (pulsing kb).Reaches 5599 61600 ∧ (pulsing kb).Reaches 5600 61600 := by
  refine ⟨inv_kb, inv_counting, inv_counting_late 0 (by decide), inv_pulsing, ?_⟩
  simp only [State.Reaches, show (counting kb).cfg.tieOrder = .timerFirst from rfl,
    show (pulsing kb).cfg.tieOrder = .timerFirst from rfl,
    show (counting late).cfg.tieOrder = .eventFirst from rfl]
  decide

theorem witness_AdvanceKeepsTheRestOfTheBlock :
    ∃ t, kb.started = true ∧ exec (.advance 1) kb = .next t := ⟨_, rfl, rfl⟩

theorem witness_OneEdgeGivesOneResetPulse :
    ∃ t, kb.Inv ∧ kb.started = true ∧ kb.wdState = .armed ∧ kb.wdLine = true ∧
      exec (.wrWdog false) kb = .next t ∧
      t.Reaches (61600 : Delta).toNat (kb.now + kb.cfg.tLong + kb.cfg.tShort) :=
  ⟨_, inv_kb, rfl, rfl, rfl, rfl, show 0 + 56000 + 5600 ≤ 0 + 61600 by decide⟩

theorem witness_RetriggerRestartsTheWindow :
    ∃ t, (counting kb).Inv ∧ (counting kb).started = true ∧ (counting kb).wdState = .countingLong ∧
      (counting kb).wdLine = true ∧ exec (.wrWdog false) (counting kb) = .next t ∧
      ¬ t.Reaches (55999 : Delta).toNat ((counting kb).now + (counting kb).cfg.tLong) :=
  ⟨_, inv_counting, rfl, rfl, rfl, rfl, show ¬ 0 + 56000 ≤ 0 + 55999 by decide⟩

/-- The longest sum, and the shortest second passage under each tie order. -/
theorem witness_AdvancesAddUp :
    (0xFFFFFE : Delta).toNat + (1 : Delta).toNat < 2 ^ 24 ∧ (counting kb).cfg.tieOrder = .timerFirst ∧
    (1 : Delta) ≠ 0 ∧ (counting late).started = true ∧ (counting kb).started = true ∧
    (∃ t, exec (.advance 0xFFFFFE) (counting late) = .next t) ∧
    (∃ t, exec (.advance 0xFFFFFF) (counting kb) = .next t) :=
  ⟨by decide, rfl, by decide, rfl, rfl, ⟨_, rfl⟩, ⟨_, rfl⟩⟩

/-- The long deadline and the short one, each one microsecond ahead. -/
theorem witness_AdvanceZeroFiresATiedDeadline :
    (let s : State := { counting late with now := 55999 }
     s.Inv ∧ s.started = true ∧ s.cfg.tieOrder = .eventFirst ∧ (1 : Delta) ≠ 0 ∧
       s.wdState = .countingLong ∧ s.longDeadline = some (s.now + (1 : Delta).toNat)) ∧
    (let s : State := { pulsing late with now := 61599 }
     s.Inv ∧ s.started = true ∧ s.cfg.tieOrder = .eventFirst ∧ (1 : Delta) ≠ 0 ∧
       s.wdState = .resetAsserted ∧ s.shortDeadline = some (s.now + (1 : Delta).toNat)) :=
  ⟨⟨inv_counting_late 55999 (by decide), by decide⟩, ⟨inv_pulsing_late 61599 (by decide), by decide⟩⟩

/-- What is left after firing: a long deadline, or a short one, with each bound at its edge. -/
theorem witness_FiringLeavesNothingDue :
    ((counting kb).fireDue 56000 true).longDeadline = some 56000 ∧
    ((counting kb).fireDue 55999 false).longDeadline = some 56000 ∧
    (((counting kb).fireDue 61599 false).longDeadline = none ∧
      ((counting kb).fireDue 61599 false).shortDeadline = some 61600) := by decide

/-- `StepKeepsTheInvariant` and both statements about the trace, before and after device start. -/
theorem witness_invariants_step :
    (∃ t, State.Inv { kb with events := [0x02000000#32] } ∧
      step { kb with events := [0x02000000#32] } = .next t) ∧
    (∃ t, State.Inv { pre with events := [0x00000000#32] } ∧
      step { pre with events := [0x00000000#32] } = .next t) ∧
    (State.TraceOk { kb with events := [0x02000000#32] } ∧
      State.TimesOk { kb with events := [0x02000000#32] }) :=
  ⟨⟨_, inv_kb, rfl⟩, ⟨_, ⟨by decide, nofun⟩, rfl⟩, traceOk_kb⟩

theorem witness_InvariantHoldsAtDeviceStart : kb16.cfg.wf = true ∧ kp.cfg.wf = true := by decide

/-- The assertion (WD-3) and the release (WD-4) of the reset line. -/
theorem witness_ResetLineChangesOnlyByExpiry :
    (∃ t, State.Inv { counting kb with events := [0x4100DAC0#32] } ∧
      step { counting kb with events := [0x4100DAC0#32] } = .next t ∧
      kb.resetAsserted ≠ t.resetAsserted) ∧
    (∃ t, State.Inv { pulsing kb with events := [0x410015E0#32] } ∧
      step { pulsing kb with events := [0x410015E0#32] } = .next t ∧
      (pulsing kb).resetAsserted ≠ t.resetAsserted) :=
  ⟨⟨_, inv_counting, rfl, by decide⟩, ⟨_, inv_pulsing, rfl, by decide⟩⟩

theorem witness_EventsCannotTouchTheResetPulse :
    ∃ t, (pulsing kb).started = true ∧ (pulsing kb).wdState = .resetAsserted ∧
      (∀ d, Instr.wrWdog false ≠ .advance d) ∧ exec (.wrWdog false) (pulsing kb) = .next t :=
  ⟨_, rfl, rfl, nofun, rfl⟩

/-- A write of 0 to a line that is 0 already stands among the events. -/
theorem witness_NoFallingEdgeNoReset :
    State.Inv { kb with wdLine := false } ∧
    ∀ before after, [Instr.wrWdog false, .advance 0xFFFFFF] = before ++ .wrWdog false :: after →
      (performAll before { kb with wdLine := false }).wdLine = false := by
  refine ⟨inv_kb, fun before after h => ?_⟩
  match before with
  | [] => rfl
  | [_] => simp at h
  | _ :: _ :: _ => simp at h

/-- Each state of the watchdog. -/
theorem witness_FeedRetriggersWhateverTheLineHeld :
    kb.started = true ∧ (counting kb).started = true ∧ (pulsing kb).started = true := by decide

/-- `WrHclkFollowsR73`, `WrHdataFollowsR74` and `WrKdataFollowsR88`: the level already held, and the other,
on each line; and both variants. -/
theorem witness_line_writes :
    kp.started = true ∧ kp.cfg.variant = .kpd ∧ kb.cfg.variant = .kbd ∧ kp.clockOut = true ∧
    kp.clockOut ≠ false ∧ kp.dataOut = true ∧ kp.dataOut ≠ false ∧ kp.kDataOut = true ∧
    kp.kDataOut ≠ false := by decide

theorem witness_RdHdataFollowsR75 : kb.started = true := by decide

theorem witness_KeypadReadsFollowR89R90 :
    kp.started = true ∧ kp.cfg.variant = .kpd ∧ kb.cfg.variant = .kbd := by decide

theorem witness_InboundChangesAreQueued :
    kp.started = true ∧ kp.cfg.variant = .kpd ∧ kb.cfg.variant = .kbd := by decide

theorem witness_SyncAppliesTheWholeQueue :
    State.started { kp with syncQ := [(.kclk, false), (.hdata, false), (.kclk, true)] } = true ∧
    State.started { kb with syncQ := [(.hdata, true)] } = true := by decide

theorem witness_InboundLevelIsSeenAfterSyncOnly :
    kp.started = true ∧ Instr.sync ∉ [Instr.wrHdata false, .inKclk false, .advance 1000] ∧
    ∀ l', Instr.inHdata l' ∉ [Instr.wrHdata false, .inKclk false, .advance 1000] := by decide

/-- Each write, performed and refused. -/
theorem witness_WritesAreIdempotent :
    (∀ i ∈ [Instr.wrRow 8 false, .wrWdog false, .wrHclk false, .wrHdata false, .wrKdata false],
      ∃ t, exec i kb = .next t) ∧ (∃ t, exec (.wrKdata false) kp = .next t) :=
  ⟨fun i _ => ⟨_, exec_eq_next i kb⟩, _, rfl⟩

theorem witness_ReadsAreIdempotent :
    ∀ i ∈ [Instr.rdCols, .rdHdata, .rdDirect 2, .rdKclk, .rdKdata], ∃ v t, answer i kp = .value v t := by
  simp only [List.mem_cons, List.not_mem_nil, or_false]
  rintro i (rfl | rfl | rfl | rfl | rfl) <;> exact ⟨_, _, rfl⟩

theorem witness_KeyboardNeverTouchesTheKeypadLink :
    ∃ t, kb.cfg.variant = .kbd ∧ step { kb with events := [0x40000000#32] } = .next t := ⟨_, rfl, rfl⟩

/-- An event of each list of the statement, and a second `RESET`. -/
theorem witness_SubBlocksKeepApart :
    kp.started = true ∧ Instr.reset ≠ .sync ∧
    (∀ l, Instr.reset ≠ .inHdata l ∧ Instr.reset ≠ .inKclk l ∧ Instr.reset ≠ .inKdata l) ∧
    ∀ i ∈ [Instr.wrRow 2 false, .wrWdog false, .wrHclk false, .wrKdata false, .reset],
      ∃ t, exec i kp = .next t :=
  ⟨rfl, nofun, fun _ => ⟨nofun, nofun, nofun⟩, fun i _ => ⟨_, exec_eq_next i kp⟩⟩

theorem witness_OnlyAdvanceMovesTime :
    ∃ t u, kb.Inv ∧ kb.started = true ∧ exec (.advance 0xFFFFFF) kb = .next t ∧ exec .sync kb = .next u :=
  ⟨_, _, inv_kb, rfl, rfl, rfl⟩

/-- A row a pin carries and the last row, which it does not; and a pin with no write role. -/
theorem witness_PinWritePerformsEachRoleOnce :
    2 < pinned.cfg.rows ∧ Role.row 1 ∈ pinRoles pinned.cfg 0 ∧ Role.row 2 ∉ pinRoles pinned.cfg 0 ∧
    pinned.started = true ∧
    ∀ r ∈ pinRoles pinned.cfg 1, (∀ i < pinned.cfg.rows, r ≠ .row i) ∧
      r ≠ .hclk ∧ r ≠ .hdataO ∧ r ≠ .kdataO ∧ r ≠ .wdog := by decide

theorem witness_PinReadReturnsItsRole :
    pinned.started = true ∧ pinned.cfg.wf = true ∧ pinReadRole pinned.cfg 0 = none ∧
    pinReadRole pinned.cfg 1 = some (.col 2) ∧ pinReadRole pinned.cfg 2 = some .hdataI ∧
    pinReadRole pinned.cfg 3 = some (.direct 2) ∧ pinned.direct[2]? = some true ∧
    pinReadRole pinned.cfg 4 = some .kclkI ∧ pinReadRole pinned.cfg 5 = some .kdataI ∧
    pinned.cfg.variant = .kpd ∧ kb.cfg.variant = .kbd := by decide

theorem witness_KeypadWatchdogPinIsTheParameter : pinned.cfg.variant = .kpd := by decide

theorem witness_RowsSetsTheWholePattern : kb.started = true ∧ kp.started = true := by decide

/-- Both tie orders, with the shortest and the longest interval whose expansion has two passages. -/
theorem witness_WaitIsOnePassageOfTime :
    kb.started = true ∧ kb.cfg.tieOrder = .timerFirst ∧ late.started = true ∧
    0x1000000 % 0xFFFFFF ≠ 0 ∧ 0x1FFFFFD % 0xFFFFFF ≠ 0 := by decide

/-- A block that steps beside another, and one that stops. -/
theorem witness_InstancesShareNothing :
    (System.mk [{ kb with events := [0x40000000#32] }, kp]).blocks[1]? = some kp ∧ 0 ≠ 1 ∧
    (System.mk [{ kb with events := [0x40000000#32] }, kp]).blocks[0]? =
      some { kb with events := [0x40000000#32] } ∧
    (∃ t, step { kb with events := [0x40000000#32] } = .next t) ∧ ∀ t, step kp ≠ .next t := by
  refine ⟨rfl, by decide, rfl, ⟨_, rfl⟩, fun t h => ?_⟩
  rw [show step kp = .fault .endOfEvents from rfl] at h
  cases h

end Sys2Proof.Tests
end

/-! The state and what every step keeps of it (10_state.md): first what each rule leaves, then the firing
procedure and the passage of time, then the invariants. -/

namespace Sys2Proof.Machine

/-! ### What each rule leaves, as one record update

The primitive updates stand in `Laws/State.lean`; these are the operations built from them. -/

namespace State

/-- `setClockOut` (R73), as one update: the observation is there exactly when the level changes. -/
theorem driveClock_eq (l : Level) (s : State) :
    s.driveClock l =
      { s with
        clockOut := l
        trace := s.trace ++ if s.clockOut = l then [] else [⟨s.now, .out .hclk l⟩] } := by
  unfold driveClock levelChanges
  by_cases h : s.clockOut = l
  · subst h; simp
  · simp [h, emit]

/-- `setDataOut` (R74), as one update. -/
theorem driveData_eq (l : Level) (s : State) :
    s.driveData l =
      { s with
        dataOut := l
        trace := s.trace ++ if s.dataOut = l then [] else [⟨s.now, .out .hdata l⟩] } := by
  unfold driveData levelChanges
  by_cases h : s.dataOut = l
  · subst h; simp
  · simp [h, emit]

/-- The rule of R88, as one update. -/
theorem driveKeyboardData_eq (l : Level) (s : State) :
    s.driveKeyboardData l =
      { s with
        kDataOut := l
        trace := s.trace ++ if s.kDataOut = l then [] else [⟨s.now, .out .kdata l⟩] } := by
  unfold driveKeyboardData levelChanges
  by_cases h : s.kDataOut = l
  · subst h; simp
  · simp [h, emit]

/-- `SYNC` (R78), as one update. -/
theorem synchronize_eq (s : State) :
    s.synchronize =
      { s with
        dataIn := lastLevel .hdata s.dataIn s.syncQ
        kClockIn := if s.cfg.variant = .kpd then lastLevel .kclk s.kClockIn s.syncQ else s.kClockIn
        kDataIn := if s.cfg.variant = .kpd then lastLevel .kdata s.kDataIn s.syncQ else s.kDataIn
        syncQ := [] } := by
  rw [synchronize, foldl_applyEntry]

/-- Everything `WR_WDOG` can do (R60 to R64): it records the level alone, or, at a falling edge outside the
reset pulse, starts the long timer again too. -/
theorem writeWdog_cases (l : Level) (s : State) :
    ((fallingEdge s.wdLine l = false ∨ s.wdState = .resetAsserted) ∧
      s.writeWdog l = { s with wdLine := l }) ∨
    (fallingEdge s.wdLine l = true ∧ s.wdState ≠ .resetAsserted ∧
      s.writeWdog l =
        { s with
          wdLine := l
          longDeadline := some (s.now + s.cfg.tLong)
          wdState := .countingLong }) := by
  unfold writeWdog
  cases hf : fallingEdge s.wdLine l with
  | false => exact .inl ⟨.inl rfl, rfl⟩
  | true =>
    cases hw : s.wdState with
    | armed => right; simp [onFallingEdge, fallingArmed, armLong]
    | countingLong => right; simp [onFallingEdge, fallingCounting, armLong]
    | resetAsserted => left; simp [onFallingEdge]

end State

/-! ### The firing procedure and the passage of time -/

/-- A deadline due at a bound is no later than it. -/
theorem le_of_due {strict : Bool} {x bound : Nat} (h : Due strict x bound) : x ≤ bound := by
  cases strict
  · exact h
  · exact Nat.le_of_lt h

/-- What holds before the firing procedure and survives each expiry of a due deadline holds after it
(R67). -/
theorem fireDue_induct {P : State → Prop} {bound : Nat} {strict : Bool} {s : State} (hs : P s)
    (hlong : ∀ u d, P u → u.longDeadline = some d → Due strict d bound → P (u.longExpire d))
    (hshort : ∀ u d, P u → u.longDeadline = none → u.shortDeadline = some d → Due strict d bound →
      P (u.shortExpire d)) :
    P (s.fireDue bound strict) := by
  rcases fireDue_cases bound strict s with ⟨h, -⟩ | ⟨d, hl, hd, -, h⟩ | ⟨d, hl, hd, hd', h⟩ |
    ⟨d, hl, hsd, hd, h⟩ <;> rw [h]
  · exact hs
  · exact hlong s d hs hl hd
  · exact hshort _ _ (hlong s d hs hl hd) rfl rfl hd'
  · exact hshort s d hs hl hsd hd

/-- The firing procedure returns only when the pending deadline is not due any more (R67). -/
theorem fireDue_pendingDeadline_not_due {bound : Nat} {strict : Bool} {s : State} {d : Nat}
    (h : (s.fireDue bound strict).pendingDeadline = some d) : ¬ Due strict d bound := by
  rcases fireDue_cases bound strict s with ⟨hf, hn⟩ | ⟨L, hl, -, hn, hf⟩ | ⟨L, hl, -, -, hf⟩ |
    ⟨S, hl, -, -, hf⟩ <;> rw [hf] at h
  · exact hn d h
  · have : L + s.cfg.tShort = d := by simpa [State.pendingDeadline] using h
    exact this ▸ hn
  · simp [State.pendingDeadline] at h
  · simp [State.pendingDeadline, hl] at h

/-! ### The watchdog invariant at an expiry (R21, R65, R66) -/

namespace State

/-- R21, read off the watchdog's state: at most one deadline is pending, and it is not in the past. -/
theorem WatchdogOk.cases {s : State} (h : s.WatchdogOk) :
    (s.wdState = .armed ∧ s.longDeadline = none ∧ s.shortDeadline = none ∧ s.resetAsserted = false) ∨
    (∃ t, s.wdState = .countingLong ∧ s.longDeadline = some t ∧ s.now ≤ t ∧ s.shortDeadline = none ∧
      s.resetAsserted = false) ∨
    (∃ t, s.wdState = .resetAsserted ∧ s.longDeadline = none ∧ s.shortDeadline = some t ∧ s.now ≤ t ∧
      s.resetAsserted = true) := by
  obtain ⟨harmed, hcount, hreset⟩ := h
  cases hw : s.wdState with
  | armed => exact .inl ⟨rfl, harmed hw⟩
  | countingLong =>
    obtain ⟨⟨t, hl, ht⟩, hs, hr⟩ := hcount hw
    exact .inr (.inl ⟨t, rfl, hl, ht, hs, hr⟩)
  | resetAsserted =>
    obtain ⟨hl, ⟨t, hs, ht⟩, hr⟩ := hreset hw
    exact .inr (.inr ⟨t, rfl, hl, hs, ht, hr⟩)

/-- R21: a pending deadline is the one the firing procedure looks at, and it is not in the past. -/
theorem WatchdogOk.pending {s : State} {x : Nat} (h : s.WatchdogOk)
    (hx : s.longDeadline = some x ∨ s.shortDeadline = some x) :
    s.pendingDeadline = some x ∧ s.now ≤ x := by
  rcases h.cases with ⟨-, hl, hs, -⟩ | ⟨t, -, hl, ht, hs, -⟩ | ⟨t, -, hl, hs, ht, -⟩ <;>
    simp only [hl, hs, reduceCtorEq, or_false, false_or, Option.some.injEq] at hx
  · subst hx; exact ⟨by simp [pendingDeadline, hl], ht⟩
  · subst hx; exact ⟨by simp [pendingDeadline, hl, hs], ht⟩

/-- R21: while the long timer runs, the reset line is released. -/
theorem WatchdogOk.not_resetAsserted {s : State} {x : Nat} (h : s.WatchdogOk)
    (hx : s.longDeadline = some x) : s.resetAsserted = false := by
  rcases h.cases with ⟨-, -, -, hr⟩ | ⟨t, -, -, -, -, hr⟩ | ⟨t, -, hl, -, -, -⟩
  · exact hr
  · exact hr
  · simp [hl] at hx

/-- R21: while the short timer runs, the reset line is asserted. -/
theorem WatchdogOk.resetAsserted {s : State} {x : Nat} (h : s.WatchdogOk)
    (hx : s.shortDeadline = some x) : s.resetAsserted = true := by
  rcases h.cases with ⟨-, -, hs, -⟩ | ⟨t, -, -, -, hs, -⟩ | ⟨t, -, -, -, -, hr⟩
  · simp [hs] at hx
  · simp [hs] at hx
  · exact hr

/-- A long expiry leaves R21 in force, whatever was before. -/
theorem watchdogOk_longExpire (x : Nat) (s : State) : (s.longExpire x).WatchdogOk := by
  simp [WatchdogOk]

/-- A short expiry with no long deadline pending leaves R21 in force. -/
theorem watchdogOk_shortExpire (x : Nat) {s : State} (h : s.longDeadline = none) :
    (s.shortExpire x).WatchdogOk := by
  simp [WatchdogOk, h]

/-- The time may move up to the pending deadline. -/
theorem WatchdogOk.setNow {s : State} {n : Nat} (h : s.WatchdogOk)
    (hn : ∀ x, s.pendingDeadline = some x → n ≤ x) : (s.setNow n).WatchdogOk := by
  have le : ∀ x, s.longDeadline = some x ∨ s.shortDeadline = some x → n ≤ x :=
    fun x hx => hn x (h.pending hx).1
  obtain ⟨harmed, hcount, hreset⟩ := h
  refine ⟨harmed, fun hw => ?_, fun hw => ?_⟩
  · obtain ⟨⟨t, hl, -⟩, hrest⟩ := hcount hw
    exact ⟨⟨t, hl, le t (.inl hl)⟩, hrest⟩
  · obtain ⟨hl, ⟨t, hs, -⟩, hr⟩ := hreset hw
    exact ⟨hl, ⟨t, hs, le t (.inr hs)⟩, hr⟩

/-- Under R21 a deadline due now is the time now, so firing what is due now leaves the time where it is. -/
theorem WatchdogOk.fireDue_now {s : State} (h : s.WatchdogOk) : (s.fireDue s.now false).now = s.now := by
  refine (fireDue_induct (P := fun u => u.WatchdogOk ∧ u.now = s.now) ⟨h, rfl⟩ ?_ ?_).2
  · rintro u x ⟨hu, hnow⟩ hl hdue
    have hle := (hu.pending (.inl hl)).2
    exact ⟨watchdogOk_longExpire x u, (le_of_due hdue).antisymm (hnow ▸ hle)⟩
  · rintro u x ⟨hu, hnow⟩ hl hs hdue
    have hle := (hu.pending (.inr hs)).2
    exact ⟨watchdogOk_shortExpire x hl, (le_of_due hdue).antisymm (hnow ▸ hle)⟩

end State

/-! ### The passage of time -/

/-- The time after the firing procedure is no later than its bound, if the time before is not. -/
theorem fireDue_now_le {bound : Nat} {strict : Bool} {s : State} (h : s.now ≤ bound) :
    (s.fireDue bound strict).now ≤ bound := by
  exact fireDue_induct (P := fun u => u.now ≤ bound) h (fun _ _ _ _ hx => le_of_due hx)
    (fun _ _ _ _ _ hx => le_of_due hx)

/-- Everything `ADVANCE` does (R69), under either tie order: it fires due deadlines, none of them later than
the end of its interval, and then sets its new time `n`. No deadline pending then is before `n`, nor at `n`
when the timer goes first. Whatever survives the expiries holds of the state before the time is set.
Without R21 a deadline of the past can set the time back; with it `n` is the time it should be. -/
theorem advanceBy_induct {P : State → Prop} {d : Nat} {s : State} (hs : P s)
    (hlong : ∀ u x, P u → u.longDeadline = some x → x ≤ s.now + d → P (u.longExpire x))
    (hshort : ∀ u x, P u → u.longDeadline = none → u.shortDeadline = some x → x ≤ s.now + d →
      P (u.shortExpire x)) :
    ∃ u n, P u ∧ s.advanceBy d = u.setNow n ∧ u.now ≤ n ∧ (s.WatchdogOk → n = s.now + d) ∧
      ∀ x, u.pendingDeadline = some x → n ≤ x ∧ (s.cfg.tieOrder = .timerFirst → n < x) := by
  have fire : ∀ u bound strict, P u → bound ≤ s.now + d → P (u.fireDue bound strict) := by
    intro u bound strict hu hb
    exact fireDue_induct hu (fun v x hv hl hx => hlong v x hv hl ((le_of_due hx).trans hb))
      (fun v x hv hl hsx hx => hshort v x hv hl hsx ((le_of_due hx).trans hb))
  unfold State.advanceBy
  cases ht : s.cfg.tieOrder with
  | timerFirst =>
    refine ⟨s.fireDue (s.now + d) false, s.now + d, fire s _ false hs le_rfl, rfl,
      fireDue_now_le (by omega), fun _ => rfl, fun x hx => ?_⟩
    have := fireDue_pendingDeadline_not_due hx
    simp only [Due, Bool.false_eq_true, if_false] at this
    exact ⟨by omega, fun _ => by omega⟩
  | eventFirst =>
    have hle : (s.fireDue s.now false).now ≤ s.now := fireDue_now_le le_rfl
    refine ⟨_, _, fire _ _ true (fire s s.now false hs (by omega)) (by omega), rfl,
      fireDue_now_le (by omega), fun h => by rw [h.fireDue_now], fun x hx => ?_⟩
    have := fireDue_pendingDeadline_not_due hx
    simp only [Due, if_true] at this
    exact ⟨by omega, nofun⟩

/-- `u` is `s` with other watchdog state, another time, and observations added to its trace. -/
def WatchdogMoves (s u : State) : Prop :=
  ∃ (w : WdState) (r : Bool) (L S : Option Nat) (os : List Obs) (n : Nat), u =
    { s with
      now := n, wdState := w, resetAsserted := r, longDeadline := L, shortDeadline := S,
      trace := s.trace ++ os }

theorem WatchdogMoves.refl (s : State) : WatchdogMoves s s :=
  ⟨_, _, _, _, [], _, by rw [List.append_nil]⟩

theorem WatchdogMoves.longExpire {s u : State} (h : WatchdogMoves s u) (x : Nat) :
    WatchdogMoves s (u.longExpire x) := by
  obtain ⟨w, r, L, S, os, n, rfl⟩ := h
  exact ⟨_, _, _, _, os ++ [⟨x, .out .reset true⟩], _, by rw [← List.append_assoc]; rfl⟩

theorem WatchdogMoves.shortExpire {s u : State} (h : WatchdogMoves s u) (x : Nat) :
    WatchdogMoves s (u.shortExpire x) := by
  obtain ⟨w, r, L, S, os, n, rfl⟩ := h
  exact ⟨_, _, _, _, os ++ [⟨x, .out .reset false⟩], _, by rw [← List.append_assoc]; rfl⟩

/-- `ADVANCE` touches the time, the watchdog and the end of the trace alone. -/
theorem advanceBy_watchdogMoves (d : Nat) (s : State) : WatchdogMoves s (s.advanceBy d) := by
  obtain ⟨_, n, ⟨w, r, L, S, os, _, rfl⟩, h, -⟩ :=
    advanceBy_induct (d := d) (WatchdogMoves.refl s) (fun _ x hu _ _ => hu.longExpire x)
      (fun _ x hu _ _ _ => hu.shortExpire x)
  exact ⟨w, r, L, S, os, n, h⟩

/-- Under R21 `ADVANCE` moves the time by exactly its increment (R23). -/
theorem State.WatchdogOk.advanceBy_now {s : State} (h : s.WatchdogOk) (d : Nat) :
    (s.advanceBy d).now = s.now + d := by
  obtain ⟨u, n, -, hu, -, hn, -⟩ := advanceBy_induct (P := fun _ => True) (d := d) (s := s) trivial
    (fun _ _ _ _ _ => trivial) (fun _ _ _ _ _ _ => trivial)
  rw [hu, hn h]
  rfl

/-! ### What every rule leaves unchanged -/

/-- No rule touches the configuration, the event sequence, the position or the refusal mark (R10, R26). -/
theorem ruleState_bookkeeping (i : Instr) (s : State) :
    (ruleState i s).cfg = s.cfg ∧ (ruleState i s).events = s.events ∧ (ruleState i s).pos = s.pos ∧
      (ruleState i s).refused = s.refused := by
  cases i with
  | wrWdog l =>
    rcases s.writeWdog_cases l with ⟨-, h⟩ | ⟨-, -, h⟩ <;> simp [ruleState, h]
  | advance d =>
    obtain ⟨w, r, L, S, os, n, h⟩ := advanceBy_watchdogMoves d.toNat s
    simp [ruleState, h]
  | wrHclk l => simp [ruleState, State.driveClock_eq]
  | wrHdata l => simp [ruleState, State.driveData_eq]
  | wrKdata l => simp [ruleState, State.driveKeyboardData_eq]
  | sync => simp [ruleState, State.synchronize_eq]
  | _ => exact ⟨rfl, rfl, rfl, rfl⟩

@[simp] theorem ruleState_cfg (i : Instr) (s : State) : (ruleState i s).cfg = s.cfg :=
  (ruleState_bookkeeping i s).1

@[simp] theorem ruleState_events (i : Instr) (s : State) : (ruleState i s).events = s.events :=
  (ruleState_bookkeeping i s).2.1

@[simp] theorem ruleState_pos (i : Instr) (s : State) : (ruleState i s).pos = s.pos :=
  (ruleState_bookkeeping i s).2.2.1

@[simp] theorem ruleState_refused (i : Instr) (s : State) : (ruleState i s).refused = s.refused :=
  (ruleState_bookkeeping i s).2.2.2

/-- No rule but that of `RESET` takes an observation back or stops the device (R24, R25). -/
theorem ruleState_started_and_trace {i : Instr} (hi : i ≠ .reset) (s : State) :
    (ruleState i s).started = s.started ∧ ∃ shown, (ruleState i s).trace = s.trace ++ shown := by
  cases i with
  | reset => exact absurd rfl hi
  | wrWdog l =>
    rcases s.writeWdog_cases l with ⟨-, h⟩ | ⟨-, -, h⟩ <;> rw [ruleState, h] <;>
      exact ⟨rfl, [], (List.append_nil _).symm⟩
  | advance d =>
    obtain ⟨w, r, L, S, os, n, h⟩ := advanceBy_watchdogMoves d.toNat s
    rw [ruleState, h]
    exact ⟨rfl, os, rfl⟩
  | wrHclk l => rw [ruleState, State.driveClock_eq]; exact ⟨rfl, _, rfl⟩
  | wrHdata l => rw [ruleState, State.driveData_eq]; exact ⟨rfl, _, rfl⟩
  | wrKdata l => rw [ruleState, State.driveKeyboardData_eq]; exact ⟨rfl, _, rfl⟩
  | sync => rw [ruleState, State.synchronize_eq]; exact ⟨rfl, [], (List.append_nil _).symm⟩
  | rdCols | rdHdata | rdDirect | rdKclk | rdKdata => exact ⟨rfl, _, rfl⟩
  | wrRow | inHdata | inKclk | inKdata | envKeyrow | envDirect =>
    exact ⟨rfl, [], (List.append_nil _).symm⟩

/-- Every rule but those of `RESET`, `WR_WDOG` and `ADVANCE` leaves the watchdog and the time alone. -/
theorem ruleState_watchdog_frame {i : Instr} (hr : i ≠ .reset) (hw : ∀ l, i ≠ .wrWdog l)
    (ha : ∀ d, i ≠ .advance d) (s : State) :
    (ruleState i s).wdState = s.wdState ∧ (ruleState i s).longDeadline = s.longDeadline ∧
      (ruleState i s).shortDeadline = s.shortDeadline ∧
      (ruleState i s).resetAsserted = s.resetAsserted ∧ (ruleState i s).now = s.now := by
  cases i with
  | reset => exact absurd rfl hr
  | wrWdog l => exact absurd rfl (hw l)
  | advance d => exact absurd rfl (ha d)
  | wrHclk l => simp [ruleState, State.driveClock_eq]
  | wrHdata l => simp [ruleState, State.driveData_eq]
  | wrKdata l => simp [ruleState, State.driveKeyboardData_eq]
  | sync => simp [ruleState, State.synchronize_eq]
  | _ => exact ⟨rfl, rfl, rfl, rfl, rfl⟩

/-- Every rule but that of `ADVANCE` leaves the time alone, after device start (R23). -/
theorem ruleState_now {i : Instr} (hr : i ≠ .reset) (ha : ∀ d, i ≠ .advance d) (s : State) :
    (ruleState i s).now = s.now := by
  by_cases hw : ∃ l, i = .wrWdog l
  · obtain ⟨l, rfl⟩ := hw
    rcases s.writeWdog_cases l with ⟨-, h⟩ | ⟨-, -, h⟩ <;> simp [ruleState, h]
  · obtain ⟨-, -, -, -, hnow⟩ := ruleState_watchdog_frame hr (not_exists.mp hw) ha s
    exact hnow

/-- On KBD no rule of an admitted event touches the keypad link's fields (R17, R46). -/
theorem ruleState_keypadLink_of_kbd {i : Instr} {s : State} (hv : s.cfg.variant = .kbd)
    (ha : admission s.cfg i = none) :
    (ruleState i s).kClockIn = s.kClockIn ∧ (ruleState i s).kDataIn = s.kDataIn ∧
      (ruleState i s).kDataOut = s.kDataOut := by
  cases i with
  | reset => simp [ruleState, State.startDevice, hv]
  | wrWdog l =>
    rcases s.writeWdog_cases l with ⟨-, h⟩ | ⟨-, -, h⟩ <;> simp [ruleState, h]
  | advance d =>
    obtain ⟨w, r, L, S, os, n, h⟩ := advanceBy_watchdogMoves d.toNat s
    simp [ruleState, h]
  | wrHclk l => simp [ruleState, State.driveClock_eq]
  | wrHdata l => simp [ruleState, State.driveData_eq]
  | wrKdata l => simp [admission, variantCheck, hv] at ha
  | sync => simp [ruleState, State.synchronize_eq, hv]
  | _ => exact ⟨rfl, rfl, rfl⟩

/-! ### What every step keeps, from what every rule keeps -/

/-- A property that the taking of a word, a refusal and every performed rule keep is kept by every step. -/
theorem step_preserves {P : State → Prop} (hfetch : ∀ s rest, P s → P (s.fetched rest))
    (hrefuse : ∀ s, P s → P s.refuse) (hrule : ∀ i s, Performable i s → P s → P (ruleState i s))
    {s t : State} (hs : P s) (h : step s = .next t) : P t := by
  obtain ⟨w, rest, -, rfl | ⟨i, -, hp, rfl⟩⟩ := step_cases h
  · exact hrefuse _ (hfetch s rest hs)
  · exact hrule i _ hp (hfetch s rest hs)

/-- An event is refused exactly when it may not be performed now (R85). -/
theorem answer_refused_iff (i : Instr) (s : State) :
    (∃ r, answer i s = .refused r) ↔ ¬ Performable i s := by
  constructor
  · rintro ⟨r, hr⟩ ⟨ha, hs⟩
    by_cases hi : i = .reset
    · subst hi
      have : s.started = false := by simpa using hs
      simp [answer, answerReset, this] at hr
    · exact (answer_passes hi ha (hs.2 hi)).2 r hr
  · intro h
    cases ha : admission s.cfg i with
    | some r => exact ⟨r, answer_not_admitted ha⟩
    | none =>
      by_cases hi : i = .reset
      · subst hi
        have : s.started = true := by simpa [Performable, admission] using h
        exact ⟨.restart, by simp [answer, answerReset, this]⟩
      · exact ⟨.notStarted, answer_not_started hi ha (by simpa [Performable, ha, hi] using h)⟩

/-- A word is refused exactly when it decodes to no event that may be performed now (R85). -/
theorem wordAnswer_refused_iff (w : Word) (s : State) :
    (∃ r, wordAnswer w s = .refused r) ↔ ∀ i, decode s.cfg w = .ok i → ¬ Performable i s := by
  unfold wordAnswer
  cases hd : decode s.cfg w with
  | error r => simp
  | ok i => simpa using answer_refused_iff i s

/-- A word that decodes to an event that may be performed is that event's rule (R85). -/
theorem step_of_performable {s : State} {w : Word} {rest : List Word} {i : Instr}
    (he : s.events = w :: rest) (hd : decode s.cfg w = .ok i) (hp : Performable i s) :
    step s = .next (ruleState i (s.fetched rest)) := by
  have hp' : Performable i (s.fetched rest) := hp
  refine (step_next_iff _ _).mpr ⟨w, rest, he, ?_⟩
  simp [wordAnswer_state, hd, perform_performable hp']

/-- The all-zero word is `RESET` in every configuration (R45). -/
theorem decode_reset_word (c : Config) : decode c 0x00000000#32 = .ok .reset := rfl

/-- Before device start the all-zero word is device start (R84). -/
theorem step_reset_word {s : State} {rest : List Word} (hs : s.started = false)
    (he : s.events = 0x00000000#32 :: rest) : step s = .next (s.fetched rest).startDevice :=
  step_of_performable he (decode_reset_word s.cfg) ⟨rfl, by simp [hs]⟩

/-- After device start `RESET` is not performed (R84). -/
theorem Performable.ne_reset {i : Instr} {s : State} (h : Performable i s) (hs : s.started = true) :
    i ≠ .reset := h.2.mp hs

theorem Performable.admitted {i : Instr} {s : State} (h : Performable i s) :
    admission s.cfg i = none := h.1

theorem Performable.wellFormed {i : Instr} {s : State} (h : Performable i s) :
    i.wellFormed s.cfg = true := (admission_eq_none_iff s.cfg i).mp h.1

/-- The event performed before device start is `RESET` (R85). -/
theorem Performable.eq_reset {i : Instr} {s : State} (h : Performable i s) (hs : s.started = false) :
    i = .reset := by
  simpa [hs] using h.2

/-! ### The configuration's conditions and the widths (R5, R11 to R13, R22) -/

/-- What R5 asks of a configuration, taken apart. -/
theorem config_wf_iff (c : Config) :
    c.wf = true ↔ 1 ≤ c.tLong ∧ 1 ≤ c.tShort ∧ c.ndKbd ≤ 16 ∧ c.keys0.length = c.rows ∧
      (∀ m ∈ c.keys0, m.toNat < 2 ^ c.cols) ∧ c.direct0.length = c.nd := by
  simp [Config.wf, and_assoc]

/-- A mask fits a width exactly when no bit at or above it is set. -/
theorem mask_lt_two_pow_iff (v : Mask) (n : Nat) :
    v.toNat < 2 ^ n ↔ ∀ j, n ≤ j → j < 9 → v.getLsbD j = false := by
  constructor
  · intro h j hn _
    exact Nat.testBit_lt_two_pow (h.trans_le (Nat.pow_le_pow_right (by omega) hn))
  · intro h
    refine Nat.lt_pow_two_of_testBit _ fun j hj => ?_
    by_cases h9 : j < 9
    · exact h j hj h9
    · exact BitVec.getLsbD_of_ge v j (by omega)

/-- Writing a bit below the width keeps a mask within it. -/
theorem setMaskBit_lt_two_pow {v : Mask} {n i : Nat} (l : Level) (hv : v.toNat < 2 ^ n) (hi : i < n) :
    (setMaskBit v i l).toNat < 2 ^ n := by
  rw [mask_lt_two_pow_iff] at hv ⊢
  intro j hn h9
  rw [getLsbD_setMaskBit v i j l h9, if_neg (by omega)]
  exact hv j hn h9

/-- The mask of a width fits it. -/
theorem maskOf_rows_lt (c : Config) : (maskOf c.rows).toNat < 2 ^ c.rows := by
  cases h : c.variant <;> simp [Config.rows, h, maskOf]

namespace State

/-- Device start gives every field its width. -/
theorem widthsOk_startDevice {s : State} (h : s.cfg.wf = true) : s.startDevice.WidthsOk := by
  obtain ⟨-, -, -, hkeys, hkeyw, hdirect⟩ := (config_wf_iff s.cfg).mp h
  exact ⟨maskOf_rows_lt s.cfg, hkeys, hkeyw, hdirect, by simp [startDevice]⟩

end State

/-- Every rule of an admitted event keeps the widths, after device start. -/
theorem ruleState_widthsOk {i : Instr} {s : State} (hi : i ≠ .reset) (hwf : i.wellFormed s.cfg = true)
    (h : s.WidthsOk) : (ruleState i s).WidthsOk := by
  have hframe := h
  obtain ⟨hrow, hkeys, hkeyw, hdirect, hq⟩ := h
  cases i with
  | reset => exact absurd rfl hi
  | wrRow r l =>
    have hr : r.toNat < s.cfg.rows := by simpa [Instr.wellFormed, Instr.inRange, Instr.kpdOnly] using hwf
    exact ⟨setMaskBit_lt_two_pow l hrow hr, hkeys, hkeyw, hdirect, hq⟩
  | envKeyrow r m =>
    obtain ⟨-, hm⟩ : r.toNat < s.cfg.rows ∧ m.toNat < 2 ^ s.cfg.cols := by
      simpa [Instr.wellFormed, Instr.inRange, Instr.kpdOnly] using hwf
    refine ⟨hrow, by simpa [ruleState] using hkeys, fun m' hm' => ?_, hdirect, hq⟩
    rcases List.mem_or_eq_of_mem_set hm' with hm' | rfl
    · exact hkeyw m' hm'
    · exact hm
  | envDirect k l => exact ⟨hrow, hkeys, hkeyw, by simpa [ruleState] using hdirect, hq⟩
  | inHdata l =>
    refine ⟨hrow, hkeys, hkeyw, hdirect, fun hv e he => ?_⟩
    rcases List.mem_append.mp he with he | he
    · exact hq hv e he
    · simp at he; simp [he]
  | inKclk | inKdata =>
    have hv : s.cfg.variant = .kpd := by simpa [Instr.wellFormed, Instr.inRange, Instr.kpdOnly] using hwf
    exact ⟨hrow, hkeys, hkeyw, hdirect, fun hv' => by simp [ruleState, hv] at hv'⟩
  | sync =>
    rw [ruleState, State.synchronize_eq]
    exact ⟨hrow, hkeys, hkeyw, hdirect, by simp⟩
  | wrWdog l =>
    rcases s.writeWdog_cases l with ⟨-, h⟩ | ⟨-, -, h⟩ <;> rw [ruleState, h] <;> exact hframe
  | advance d =>
    obtain ⟨w, r, L, S, os, n, h⟩ := advanceBy_watchdogMoves d.toNat s
    rw [ruleState, h]
    exact hframe
  | wrHclk l => rw [ruleState, State.driveClock_eq]; exact hframe
  | wrHdata l => rw [ruleState, State.driveData_eq]; exact hframe
  | wrKdata l => rw [ruleState, State.driveKeyboardData_eq]; exact hframe
  | rdCols | rdHdata | rdDirect | rdKclk | rdKdata => exact hframe

/-! ### The watchdog invariant under every rule (R21) -/

namespace State

/-- R21 in full: with deadlines ahead of the time when the timer goes first. -/
def WatchdogInv (s : State) : Prop := s.WatchdogOk ∧ (s.cfg.tieOrder = .timerFirst → s.DeadlinesAhead)

/-- The invariant of a started device, part by part. -/
theorem inv_iff (s : State) :
    s.Inv ↔ s.cfg.wf = true ∧ (s.started = true → s.WatchdogInv ∧ s.WidthsOk) := by
  simp [Inv, WatchdogInv, and_assoc]

theorem watchdogInv_startDevice (s : State) : s.startDevice.WatchdogInv := by
  simp [WatchdogInv, WatchdogOk, DeadlinesAhead, startDevice]

/-- An edge that starts the long timer sets its deadline ahead, since `T_LONG` is at least 1 (R5, R61). -/
theorem WatchdogInv.writeWdog {s : State} (h : s.WatchdogInv) (hT : 1 ≤ s.cfg.tLong) (l : Level) :
    (s.writeWdog l).WatchdogInv := by
  rcases s.writeWdog_cases l with ⟨-, hw⟩ | ⟨-, hns, hw⟩ <;> rw [hw]
  · exact h
  · obtain ⟨hok, -⟩ := h
    obtain ⟨hs, hr⟩ : s.shortDeadline = none ∧ s.resetAsserted = false := by
      rcases hok.cases with ⟨-, -, hs, hr⟩ | ⟨_, -, -, -, hs, hr⟩ | ⟨_, hra, -, -, -, -⟩
      · exact ⟨hs, hr⟩
      · exact ⟨hs, hr⟩
      · exact absurd hra hns
    refine ⟨by simp [WatchdogOk, hs, hr], fun _ x hx => ?_⟩
    have : s.now + s.cfg.tLong = x := by simpa [hs] using hx
    show s.now < x
    omega

/-- `ADVANCE` fires what is due, so no pending deadline is left behind its new time (R67, R69). -/
theorem WatchdogInv.advanceBy {s : State} (h : s.WatchdogInv) (d : Nat) :
    (s.advanceBy d).WatchdogInv := by
  obtain ⟨u, n, ⟨hu, hc⟩, heq, -, -, hn⟩ :=
    advanceBy_induct (P := fun u => u.WatchdogOk ∧ u.cfg = s.cfg) (d := d) (s := s) ⟨h.1, rfl⟩
      (fun u x hu _ _ => ⟨watchdogOk_longExpire x u, hu.2⟩)
      (fun u x hu hl _ _ => ⟨watchdogOk_shortExpire x hl, hu.2⟩)
  rw [heq]
  refine ⟨hu.setNow fun x hx => (hn x hx).1, fun ht x hx => ?_⟩
  exact (hn x (hu.pending hx).1).2 (hc ▸ ht)

end State

/-- Every rule after device start keeps R21. -/
theorem ruleState_watchdogInv {i : Instr} {s : State} (hi : i ≠ .reset) (hT : 1 ≤ s.cfg.tLong)
    (h : s.WatchdogInv) : (ruleState i s).WatchdogInv := by
  by_cases hw : ∃ l, i = .wrWdog l
  · obtain ⟨l, rfl⟩ := hw
    exact h.writeWdog hT l
  by_cases ha : ∃ d, i = .advance d
  · obtain ⟨d, rfl⟩ := ha
    exact h.advanceBy d.toNat
  obtain ⟨hst, hl, hs, hr, hnow⟩ :=
    ruleState_watchdog_frame hi (not_exists.mp hw) (not_exists.mp ha) s
  simpa [State.WatchdogInv, State.WatchdogOk, State.DeadlinesAhead, hst, hl, hs, hr, hnow] using h

/-- Device start meets the invariant, in every configuration R5 admits. -/
theorem inv_startDevice {s : State} (h : s.cfg.wf = true) : s.startDevice.Inv :=
  (State.inv_iff _).mpr ⟨h, fun _ => ⟨s.watchdogInv_startDevice, State.widthsOk_startDevice h⟩⟩

/-- Every performed rule keeps the invariant. -/
theorem ruleState_inv {i : Instr} {s : State} (hp : Performable i s) (h : s.Inv) :
    (ruleState i s).Inv := by
  obtain ⟨hwf, hstarted⟩ := (State.inv_iff s).mp h
  cases hs : s.started with
  | false =>
    rw [hp.eq_reset hs]
    exact inv_startDevice hwf
  | true =>
    obtain ⟨hwd, hwidths⟩ := hstarted hs
    obtain ⟨hT, -⟩ := (config_wf_iff s.cfg).mp hwf
    have hi := hp.ne_reset hs
    exact (State.inv_iff _).mpr ⟨by simpa using hwf, fun _ =>
      ⟨ruleState_watchdogInv hi hT hwd, ruleState_widthsOk hi hp.wellFormed hwidths⟩⟩

/-- Every step keeps the invariant. -/
theorem step_inv {s t : State} (hs : s.Inv) (h : step s = .next t) : t.Inv :=
  step_preserves (P := State.Inv) (fun _ _ h => h) (fun _ h => h) (fun _ _ hp h => ruleState_inv hp h) hs h

/-- A property that holds at device start, and that under R21 the rules of a started device keep, is kept of
a started device by every step. -/
theorem step_preserves_started {Q : State → Prop} (hstart : ∀ s : State, Q s.startDevice)
    (hfetch : ∀ s rest, Q s → Q (s.fetched rest)) (hrefuse : ∀ s, Q s → Q s.refuse)
    (hrule : ∀ i s, i ≠ .reset → Performable i s → s.WatchdogOk → Q s → Q (ruleState i s))
    {s t : State} (hinv : s.Inv) (hs : s.started = true → Q s) (h : step s = .next t) :
    t.started = true → Q t := by
  obtain ⟨w, rest, -, rfl | ⟨i, -, hp, rfl⟩⟩ := step_cases h
  · exact fun ht => hrefuse _ (hfetch s rest (hs ht))
  · cases hst : s.started with
    | false =>
      rw [hp.eq_reset hst]
      exact fun _ => hstart _
    | true =>
      obtain ⟨hok, -⟩ := hinv.2 hst
      exact fun _ => hrule i _ (hp.ne_reset hst) hp hok (hfetch s rest (hs hst))

/-- Settles O33: the parts of the invariant, each kept by every rule. -/
theorem stepKeepsTheInvariant : Obligations.StepKeepsTheInvariant :=
  fun _ _ => step_inv

/-! ### The trace is exact (R25, R80) -/

namespace State

/-- An observation of a read shows no change of a line. -/
theorem TraceOk.emit_read {s : State} (h : s.TraceOk) (op : ReadOp) (idx : Idx) (v : Mask) :
    (s.emit (.read op idx v)).TraceOk := by
  simpa [TraceOk, notifications_append] using h

/-- A write of the clock line notifies its change, and nothing when there is none (R73). -/
theorem TraceOk.driveClock {s : State} (h : s.TraceOk) (l : Level) : (s.driveClock l).TraceOk := by
  by_cases hl : s.clockOut = l
  · simpa [driveClock_eq, TraceOk, hl] using h
  · obtain ⟨hclk, hrest⟩ := h
    simpa [driveClock_eq, TraceOk, notifications_append, hl] using ⟨hclk.snoc (Ne.symm hl), hrest⟩

/-- A write of the data line notifies its change, and nothing when there is none (R74). -/
theorem TraceOk.driveData {s : State} (h : s.TraceOk) (l : Level) : (s.driveData l).TraceOk := by
  by_cases hl : s.dataOut = l
  · simpa [driveData_eq, TraceOk, hl] using h
  · obtain ⟨hclk, hdata, hrest⟩ := h
    simpa [driveData_eq, TraceOk, notifications_append, hl] using ⟨hclk, hdata.snoc (Ne.symm hl), hrest⟩

/-- On KPD a write of the chained keyboard's line notifies its change, and nothing when there is none
(R88). -/
theorem TraceOk.driveKeyboardData {s : State} (h : s.TraceOk) (hv : s.cfg.variant = .kpd) (l : Level) :
    (s.driveKeyboardData l).TraceOk := by
  by_cases hl : s.kDataOut = l
  · simpa [driveKeyboardData_eq, TraceOk, hl] using h
  · obtain ⟨hclk, hdata, hk, -, hr⟩ := h
    simpa [driveKeyboardData_eq, TraceOk, notifications_append, hl, hv] using
      ⟨hclk, hdata, (hk hv).snoc (Ne.symm hl), hr⟩

/-- A long expiry shows that the reset line, released until then, is asserted (R65). -/
theorem TraceOk.longExpire {s : State} (h : s.TraceOk) (hr : s.resetAsserted = false) (x : Nat) :
    (s.longExpire x).TraceOk := by
  obtain ⟨hclk, hdata, hk, hk', hreset⟩ := h
  rw [hr] at hreset
  simpa [TraceOk, notifications_append] using ⟨hclk, hdata, hk, hk', hreset.snoc (c := true) (by decide)⟩

/-- A short expiry shows that the reset line, asserted until then, is released (R66). -/
theorem TraceOk.shortExpire {s : State} (h : s.TraceOk) (hr : s.resetAsserted = true) (x : Nat) :
    (s.shortExpire x).TraceOk := by
  obtain ⟨hclk, hdata, hk, hk', hreset⟩ := h
  rw [hr] at hreset
  simpa [TraceOk, notifications_append] using ⟨hclk, hdata, hk, hk', hreset.snoc (c := false) (by decide)⟩

/-- `ADVANCE` shows each expiry it fires; R21 says that each one changes the reset line. -/
theorem TraceOk.advanceBy {s : State} (h : s.TraceOk) (hok : s.WatchdogOk) (d : Nat) :
    (s.advanceBy d).TraceOk := by
  obtain ⟨u, n, ⟨-, hu⟩, heq, -⟩ :=
    advanceBy_induct (P := fun u => u.WatchdogOk ∧ u.TraceOk) (d := d) ⟨hok, h⟩
      (fun u x hu hl _ => ⟨watchdogOk_longExpire x u, hu.2.longExpire (hu.1.not_resetAsserted hl) x⟩)
      (fun u x hu hl hs _ => ⟨watchdogOk_shortExpire x hl, hu.2.shortExpire (hu.1.resetAsserted hs) x⟩)
  rw [heq]
  exact hu

/-- Device start shows nothing, and every line has its first level. -/
theorem traceOk_startDevice (s : State) : s.startDevice.TraceOk := by
  refine ⟨rfl, rfl, fun h => ?_, fun _ => rfl, rfl⟩
  exact (if_pos (show s.cfg.variant = .kpd from h)).symm

end State

/-- Every rule after device start keeps the trace exact, under R21. -/
theorem ruleState_traceOk {i : Instr} {s : State} (hi : i ≠ .reset) (hwf : i.wellFormed s.cfg = true)
    (hok : s.WatchdogOk) (h : s.TraceOk) : (ruleState i s).TraceOk := by
  cases i with
  | reset => exact absurd rfl hi
  | wrHclk l => exact h.driveClock l
  | wrHdata l => exact h.driveData l
  | wrKdata l =>
    have hv : s.cfg.variant = .kpd := by simpa [Instr.wellFormed, Instr.inRange, Instr.kpdOnly] using hwf
    exact h.driveKeyboardData hv l
  | advance d => exact h.advanceBy hok d.toNat
  | rdCols | rdHdata | rdDirect | rdKclk | rdKdata => exact h.emit_read _ _ _
  | wrWdog l => rcases s.writeWdog_cases l with ⟨-, hw⟩ | ⟨-, -, hw⟩ <;> rw [ruleState, hw] <;> exact h
  | sync => rw [ruleState, State.synchronize_eq]; exact h
  | wrRow | inHdata | inKclk | inKdata | envKeyrow | envDirect => exact h

/-- Settles O47: each write notifies an actual change and no other, and under R21 each expiry is one. -/
theorem stepKeepsExactlyOneNotificationPerChange : Obligations.StepKeepsExactlyOneNotificationPerChange :=
  fun _ _ => step_preserves_started State.traceOk_startDevice (fun _ _ h => h) (fun _ h => h)
    (fun _ _ hi hp hok h => ruleState_traceOk hi hp.wellFormed hok h)

/-! ### The trace is in the order of its times (R25, R36) -/

namespace State

/-- An observation made at the time `x`, not before now, keeps the order, with `x` the time from then
on. -/
theorem TimesOk.snoc {s t : State} {x : Nat} {k : ObsKind} (h : s.TimesOk) (hx : s.now ≤ x)
    (htrace : t.trace = s.trace ++ [⟨x, k⟩]) (hnow : t.now = x) : t.TimesOk := by
  obtain ⟨hpair, hle⟩ := h
  have before : ∀ o ∈ s.trace, o.time ≤ x := fun o ho => (hle o ho).trans hx
  rw [TimesOk, htrace, hnow]
  refine ⟨List.pairwise_append.mpr ⟨hpair, by simp, fun o ho p hp => ?_⟩, fun o ho => ?_⟩
  · rw [List.mem_singleton.mp hp]
    exact before o ho
  · rcases List.mem_append.mp ho with ho | ho
    · exact before o ho
    · rw [List.mem_singleton.mp ho]

/-- A change notified now, or no change and no notification, keeps the order. -/
theorem TimesOk.notify {s t : State} {k : ObsKind} {p : Prop} [Decidable p] (h : s.TimesOk)
    (htrace : t.trace = s.trace ++ if p then [] else [⟨s.now, k⟩]) (hnow : t.now = s.now) :
    t.TimesOk := by
  split at htrace
  · rw [TimesOk, htrace, hnow, List.append_nil]
    exact h
  · exact h.snoc le_rfl htrace hnow

theorem TimesOk.emit {s : State} (h : s.TimesOk) (k : ObsKind) : (s.emit k).TimesOk :=
  h.snoc le_rfl rfl rfl

/-- `ADVANCE` shows each expiry with its deadline, which R21 puts no earlier than the time. -/
theorem TimesOk.advanceBy {s : State} (h : s.TimesOk) (hok : s.WatchdogOk) (d : Nat) :
    (s.advanceBy d).TimesOk := by
  obtain ⟨u, n, ⟨-, hpair, hle⟩, heq, hn, -⟩ :=
    advanceBy_induct (P := fun u => u.WatchdogOk ∧ u.TimesOk) (d := d) ⟨hok, h⟩
      (fun u x hu hl _ => ⟨watchdogOk_longExpire x u, hu.2.snoc (hu.1.pending (.inl hl)).2 rfl rfl⟩)
      (fun u x hu hl hs _ => ⟨watchdogOk_shortExpire x hl, hu.2.snoc (hu.1.pending (.inr hs)).2 rfl rfl⟩)
  rw [heq]
  exact ⟨hpair, fun o ho => (hle o ho).trans hn⟩

theorem timesOk_startDevice (s : State) : s.startDevice.TimesOk := by
  simp [TimesOk, startDevice]

end State

/-- Every rule after device start keeps the order of times, under R21. -/
theorem ruleState_timesOk {i : Instr} {s : State} (hi : i ≠ .reset) (hok : s.WatchdogOk)
    (h : s.TimesOk) : (ruleState i s).TimesOk := by
  cases i with
  | reset => exact absurd rfl hi
  | wrHclk l => rw [ruleState, State.driveClock_eq]; exact h.notify rfl rfl
  | wrHdata l => rw [ruleState, State.driveData_eq]; exact h.notify rfl rfl
  | wrKdata l => rw [ruleState, State.driveKeyboardData_eq]; exact h.notify rfl rfl
  | advance d => exact h.advanceBy hok d.toNat
  | rdCols | rdHdata | rdDirect | rdKclk | rdKdata => exact h.emit _
  | wrWdog l => rcases s.writeWdog_cases l with ⟨-, hw⟩ | ⟨-, -, hw⟩ <;> rw [ruleState, hw] <;> exact h
  | sync => rw [ruleState, State.synchronize_eq]; exact h
  | wrRow | inHdata | inKclk | inKdata | envKeyrow | envDirect => exact h

/-- Settles O48: an event's observation has the time now, and an expiry's has its deadline. -/
theorem stepKeepsTheTraceInTimeOrder : Obligations.StepKeepsTheTraceInTimeOrder :=
  fun _ _ => step_preserves_started State.timesOk_startDevice (fun _ _ h => h) (fun _ h => h)
    (fun _ _ hi _ hok h => ruleState_timesOk hi hok h)

/-! ### One step, one event (R10, R26) -/

/-- Settles O12: neither a rule nor a refusal touches the sequence, the position or the configuration. -/
theorem stepTakesExactlyOneEvent : Obligations.StepTakesExactlyOneEvent := by
  intro s t h
  obtain ⟨w, rest, he, rfl | ⟨i, -, -, rfl⟩⟩ := step_cases h
  · simp [he]
  · simp [he]

/-- Settles O15: a refused word sets the mark, and a performed rule leaves it as it is. -/
theorem refusalMarkIsSticky : Obligations.RefusalMarkIsSticky := by
  refine ⟨fun s t w rest he h => ?_, fun _ => rfl⟩
  obtain ⟨w', rest', he', rfl⟩ := (step_next_iff s t).mp h
  obtain ⟨rfl, rfl⟩ := List.cons.inj (he.symm.trans he')
  rw [wordAnswer_refused_iff, wordAnswer_state]
  simp only [State.fetched_cfg]
  cases hd : decode s.cfg w with
  | error r => simp
  | ok i =>
    have fetched_iff : Performable i (s.fetched rest) ↔ Performable i s := Iff.rfl
    rcases perform_cases i (s.fetched rest) with ⟨hp, h⟩ | ⟨hp, h⟩
    · simp [h, fetched_iff.mp hp]
    · simp [h, mt fetched_iff.mpr hp]

/-- Settles O49: a refusal shows nothing, and a performed rule adds at the end of the trace. -/
theorem traceOnlyGrows : Obligations.TraceOnlyGrows := by
  intro s t hs h
  obtain ⟨w, rest, -, rfl | ⟨i, -, hp, rfl⟩⟩ := step_cases h
  · exact ⟨hs, [], (List.append_nil _).symm⟩
  · obtain ⟨hstarted, hshown⟩ := ruleState_started_and_trace (hp.ne_reset hs) (s.fetched rest)
    exact ⟨hstarted.trans hs, hshown⟩

/-- Settles O52: the keypad's own events are not admitted on KBD, and no other rule touches its link. -/
theorem keyboardNeverTouchesTheKeypadLink : Obligations.KeyboardNeverTouchesTheKeypadLink := by
  intro s t hv h
  obtain ⟨w, rest, -, rfl | ⟨i, -, hp, rfl⟩⟩ := step_cases h
  · exact ⟨rfl, rfl, rfl⟩
  · exact ruleState_keypadLink_of_kbd (s := s.fetched rest) hv hp.admitted

/-- Settles O54: an event is refused, which leaves the time alone, or its rule is performed; the rule of
`ADVANCE` moves the time by its increment, since R21 lets no deadline of the past fire. -/
theorem onlyAdvanceMovesTime : Obligations.OnlyAdvanceMovesTime := by
  intro i s t hinv hs h
  obtain ⟨hok, -⟩ := hinv.2 hs
  obtain rfl : perform i s = t := by simpa [exec_eq_next] using h
  constructor
  · rintro d rfl
    have hp : Performable (.advance d) s := ⟨rfl, by simp [hs]⟩
    rw [perform_performable hp]
    exact hok.advanceBy_now d.toNat
  · intro ha
    rcases perform_cases i s with ⟨hp, h⟩ | ⟨-, h⟩ <;> rw [h]
    · exact ruleState_now (hp.ne_reset hs) ha s
    · rfl

/-! ### Device start (R27) -/

/-- Settles O17: the word is device start, whose assignments are R27's table. -/
theorem deviceStartSetsEveryField : Obligations.DeviceStartSetsEveryField := by
  refine ⟨fun s rest hs he => ⟨_, step_reset_word hs he, ?_⟩, fun _ => ⟨rfl, rfl⟩⟩
  cases hv : s.cfg.variant <;> simp [State.startDevice, hv, Config.rows, maskOf]

/-- The state after device start is what device start makes of it again. -/
theorem afterStart_eq_startDevice (c : Config) :
    State.afterStart c = (State.afterStart c).startDevice := by
  cases h : c.variant <;> simp [State.afterStart, State.startDevice, h]

/-- The all-zero word alone brings the pre-start state to the state after device start. -/
theorem step_preStart (c : Config) :
    step { State.preStart c with events := [0x00000000#32] } = .next (State.afterStart c) := by
  rw [step_reset_word rfl rfl, afterStart_eq_startDevice]
  rfl

theorem inv_afterStart {c : Config} (h : c.wf = true) : (State.afterStart c).Inv :=
  afterStart_eq_startDevice c ▸ inv_startDevice h

/-- Before device start the invariant asks for the configuration's conditions alone. -/
theorem inv_preStart {c : Config} (h : c.wf = true) : (State.preStart c).Inv := ⟨h, nofun⟩

theorem traceOk_afterStart (c : Config) : (State.afterStart c).TraceOk :=
  afterStart_eq_startDevice c ▸ State.traceOk_startDevice _

theorem timesOk_afterStart (c : Config) : (State.afterStart c).TimesOk :=
  afterStart_eq_startDevice c ▸ State.timesOk_startDevice _

/-- Settles O34: the base case of the invariants, from what device start sets, at any configuration. -/
theorem invariantHoldsAtDeviceStart : Obligations.InvariantHoldsAtDeviceStart :=
  ⟨fun c h => ⟨inv_afterStart h, inv_preStart h, traceOk_afterStart c, timesOk_afterStart c⟩,
    inv_afterStart (by decide), traceOk_afterStart _, timesOk_afterStart _, rfl, step_preStart⟩

end Sys2Proof.Machine

/-! Stored words (20_memory.md R32, R51): the fields of an encoded word, and the event read back from it. -/

namespace Sys2Proof

/-- Every event's word stands on its own row of the opcode table. -/
theorem encode_row (i : Instr) : Laws.Encodes.Statement i := by
  cases i with
  | reset => exact Laws.Encodes.reset
  | wrRow i l => exact Laws.Encodes.wrRow i l
  | wrWdog l => exact Laws.Encodes.wrWdog l
  | wrHclk l => exact Laws.Encodes.wrHclk l
  | wrHdata l => exact Laws.Encodes.wrHdata l
  | wrKdata l => exact Laws.Encodes.wrKdata l
  | rdCols => exact Laws.Encodes.rdCols
  | rdHdata => exact Laws.Encodes.rdHdata
  | rdDirect k => exact Laws.Encodes.rdDirect k
  | rdKclk => exact Laws.Encodes.rdKclk
  | rdKdata => exact Laws.Encodes.rdKdata
  | inHdata l => exact Laws.Encodes.inHdata l
  | inKclk l => exact Laws.Encodes.inKclk l
  | inKdata l => exact Laws.Encodes.inKdata l
  | envKeyrow r m => exact Laws.Encodes.envKeyrow r m
  | envDirect k l => exact Laws.Encodes.envDirect k l
  | sync => exact Laws.Encodes.sync
  | advance d => exact Laws.Encodes.advance d

/-! ### The operand fields of the pieces of a word (R41 to R43) -/

@[simp] theorem idxField_or (a b : Word) : idxField (a ||| b) = idxField a ||| idxField b := by
  ext j hj; simp [idxField]

@[simp] theorem levelField_or (a b : Word) : levelField (a ||| b) = (levelField a || levelField b) := by
  simp [levelField]

@[simp] theorem maskField_or (a b : Word) : maskField (a ||| b) = maskField a ||| maskField b := by
  ext j hj; simp [maskField]

@[simp] theorem deltaField_or (a b : Word) : deltaField (a ||| b) = deltaField a ||| deltaField b := by
  ext j hj; simp [deltaField]

@[simp] theorem idxField_idxBits (i : Idx) : idxField (idxBits i) = i := by
  ext j hj
  simp [idxField, idxBits, show 16 + j < 32 by omega, BitVec.getLsbD_eq_getElem hj]

@[simp] theorem levelField_idxBits (i : Idx) : levelField (idxBits i) = false := by
  simp [levelField, idxBits]

@[simp] theorem maskField_idxBits (i : Idx) : maskField (idxBits i) = 0 := by
  ext j hj
  simp [maskField, idxBits, show j < 16 by omega]

@[simp] theorem idxField_levelBit (l : Level) : idxField (levelBit l) = 0 := by cases l <;> decide

@[simp] theorem levelField_levelBit (l : Level) : levelField (levelBit l) = l := by cases l <;> decide

@[simp] theorem idxField_setWidth_mask (m : Mask) : idxField (m.setWidth 32) = 0 := by
  ext j hj
  simp [idxField, BitVec.getLsbD_of_ge m (16 + j) (by omega)]

@[simp] theorem maskField_setWidth (m : Mask) : maskField (m.setWidth 32) = m := by
  ext j hj
  simp [maskField, show j < 32 by omega, BitVec.getLsbD_eq_getElem hj]

@[simp] theorem deltaField_setWidth (d : Delta) : deltaField (d.setWidth 32) = d := by
  ext j hj
  simp [deltaField, show j < 32 by omega, BitVec.getLsbD_eq_getElem hj]

/-! ### An encoded word read back -/

/-- The fields of an event's word are the event's operands (R50). -/
theorem buildEvent_encode (i : Instr) : buildEvent i.opcode (encode i) = i := by
  have idx_op : ∀ w ∈ [0x01000000#32, 0x12000000#32, 0x30000000#32, 0x31000000#32], idxField w = 0 := by
    simp [idxField]
  have level_op : ∀ w ∈ [0x01000000#32, 0x02000000#32, 0x03000000#32, 0x04000000#32, 0x05000000#32,
      0x20000000#32, 0x21000000#32, 0x22000000#32, 0x31000000#32], levelField w = false := by
    simp [levelField]
  have mask_op : maskField 0x30000000#32 = 0 := by decide
  have delta_op : deltaField 0x41000000#32 = 0 := by decide
  cases i <;> simp [Instr.opcode, buildEvent, encode, idx_op, level_op, mask_op, delta_op]

/-- An event's word passes the checks that need no configuration, and gives the event back (R49, R50). -/
theorem parseWord_encode (i : Instr) : parseWord (encode i) = .ok i := by
  obtain ⟨r, hrow, hop, -, hmatch⟩ := encode_row i
  simp [parseWord, hrow, hmatch, hop, buildEvent_encode]

/-- The bytes of a word, by shifts (R32). -/
theorem wordBytes_eq_shifts (w : Word) :
    wordBytes w =
      [(w >>> 24).setWidth 8, (w >>> 16).setWidth 8, (w >>> 8).setWidth 8, w.setWidth 8] := by
  have byte (n : Nat) : w.extractLsb' n 8 = (w >>> n).setWidth 8 := by ext j hj; simp
  simp [wordBytes, byte]

/-- Stored bytes that begin with a word give what the word parses to, and the bytes after it. -/
theorem decodeBytes_wordBytes {w : Word} {i : Instr} (h : parseWord w = .ok i) (rest : List Byte) :
    decodeBytes (wordBytes w ++ rest) = .ok (i, rest) := by
  simp [wordBytes, decodeBytes, bytesWord_wordBytes, h]

/-- Settles O7: the four bytes are the word again, and the word of an event parses to the event. -/
theorem storedWordsAreReadBack : Obligations.StoredWordsAreReadBack :=
  fun i rest => ⟨wordBytes_eq_shifts (encode i), decodeBytes_wordBytes (parseWord_encode i) rest⟩

end Sys2Proof

/-! What an event does not depend on, and what doing it again changes (20_memory.md): later events (R34, R36),
repeated writes and reads (R35), and other instances (R38). -/

namespace Sys2Proof.Machine

/-! ### Later events (R34, R36) -/

/-- The state with another event sequence before it. -/
def State.withEvents (es : List Word) (s : State) : State := { s with events := es }

/-- `WR_WDOG` (R60 to R64), as one update. -/
theorem State.writeWdog_eq (l : Level) (s : State) :
    s.writeWdog l =
      { s with
        wdLine := l
        longDeadline := if fallingEdge s.wdLine l = true ∧ s.wdState ≠ .resetAsserted then
          some (s.now + s.cfg.tLong) else s.longDeadline
        wdState := if fallingEdge s.wdLine l = true ∧ s.wdState ≠ .resetAsserted then
          .countingLong else s.wdState } := by
  rcases s.writeWdog_cases l with ⟨hf | hw, h⟩ | ⟨hf, hw, h⟩
  · simp [h, hf]
  · simp [h, hw]
  · simp [h, hf, hw]

/-- The firing procedure reads and writes no event. -/
theorem fireDueLoop_withEvents (fuel bound : Nat) (strict : Bool) (es : List Word) (s : State) :
    (s.withEvents es).fireDueLoop fuel bound strict = (s.fireDueLoop fuel bound strict).withEvents es := by
  induction fuel generalizing s with
  | zero => rfl
  | succ n ih =>
    have hpending : (s.withEvents es).pendingDeadline = s.pendingDeadline := rfl
    have hexpire (d : Nat) : (s.withEvents es).expire d = (s.expire d).withEvents es :=
      (apply_ite (State.withEvents es) (s.longDeadline = some d) (s.longExpire d) (s.shortExpire d)).symm
    simp only [State.fireDueLoop, hpending]
    cases s.pendingDeadline with
    | none => rfl
    | some d =>
      simp only [hexpire, ih]
      exact (apply_ite (State.withEvents es) ..).symm

/-- The passage of time reads and writes no event (R69). -/
theorem advanceBy_withEvents (d : Nat) (es : List Word) (s : State) :
    (s.withEvents es).advanceBy d = (s.advanceBy d).withEvents es := by
  have hfire (bound : Nat) (strict : Bool) (u : State) :
      (u.withEvents es).fireDue bound strict = (u.fireDue bound strict).withEvents es :=
    fireDueLoop_withEvents 2 bound strict es u
  have hcfg : (s.withEvents es).cfg = s.cfg := rfl
  simp only [State.advanceBy, hcfg, hfire]
  cases s.cfg.tieOrder <;> rfl

/-- No rule reads or writes an event still to come (R36). -/
theorem ruleState_withEvents (i : Instr) (es : List Word) (s : State) :
    ruleState i (s.withEvents es) = (ruleState i s).withEvents es := by
  cases i with
  | wrWdog l => simp only [ruleState, State.writeWdog_eq]; rfl
  | advance d => exact advanceBy_withEvents d.toNat es s
  | wrHclk l => simp only [ruleState, State.driveClock_eq]; rfl
  | wrHdata l => simp only [ruleState, State.driveData_eq]; rfl
  | wrKdata l => simp only [ruleState, State.driveKeyboardData_eq]; rfl
  | sync => simp only [ruleState, State.synchronize_eq]; rfl
  | _ => rfl

/-- What an event does, refused or not, does not depend on the events still to come. -/
theorem perform_withEvents (i : Instr) (es : List Word) (s : State) :
    perform i (s.withEvents es) = (perform i s).withEvents es := by
  have hiff : Performable i (s.withEvents es) ↔ Performable i s := Iff.rfl
  by_cases hp : Performable i s
  · rw [perform_performable hp, perform_performable (hiff.mpr hp), ruleState_withEvents]
  · rw [perform_not_performable hp, perform_not_performable (mt hiff.mp hp)]
    rfl

/-- What a word does, refused or not, does not depend on the events still to come. -/
theorem wordAnswer_state_withEvents (w : Word) (es : List Word) (s : State) :
    (wordAnswer w (s.withEvents es)).state (s.withEvents es) =
      ((wordAnswer w s).state s).withEvents es := by
  have hcfg : (s.withEvents es).cfg = s.cfg := rfl
  rw [wordAnswer_state, wordAnswer_state, hcfg]
  cases decode s.cfg w with
  | error r => rfl
  | ok i => exact perform_withEvents i es s

/-- An event, refused or not, leaves the configuration, the event sequence and the position (R10). -/
theorem perform_bookkeeping (i : Instr) (s : State) :
    (perform i s).cfg = s.cfg ∧ (perform i s).events = s.events ∧ (perform i s).pos = s.pos := by
  rcases perform_cases i s with ⟨-, h⟩ | ⟨-, h⟩ <;> simp [h]

/-- A word, refused or not, leaves the event sequence. -/
theorem wordAnswer_state_events (w : Word) (s : State) :
    ((wordAnswer w s).state s).events = s.events := by
  rw [wordAnswer_state]
  cases decode s.cfg w with
  | error r => rfl
  | ok i =>
    obtain ⟨-, hevents, -⟩ := perform_bookkeeping i s
    exact hevents

/-- Settles O14: the word taken is the same, and what it does sees no event still to come. -/
theorem laterEventsAreNotSeen : Obligations.LaterEventsAreNotSeen := by
  intro s t more h
  obtain ⟨w, rest, he, rfl⟩ := (step_next_iff s t).mp h
  have hword := wordAnswer_state_withEvents w (rest ++ more) (s.fetched rest)
  refine (step_next_iff _ _).mpr ⟨w, rest ++ more, by simp [he], ?_⟩
  rw [wordAnswer_state_events]
  exact hword.symm

/-! ### Repeated writes (R35) -/

/-- A bit written twice is the bit written once. -/
theorem setMaskBit_setMaskBit (v : Mask) (i : Nat) (l : Level) :
    setMaskBit (setMaskBit v i l) i l = setMaskBit v i l := by
  refine BitVec.eq_of_getLsbD_eq fun j hj => ?_
  rw [getLsbD_setMaskBit _ _ _ _ hj, getLsbD_setMaskBit _ _ _ _ hj]
  split <;> rfl

/-- The level a line holds is no falling edge. -/
theorem fallingEdge_self (l : Level) : fallingEdge l l = false := by cases l <;> rfl

/-- An event whose rule done twice is the rule done once does nothing more when it comes again, refused or
not. -/
theorem perform_perform_of_ruleState {i : Instr} {s : State} (hi : i ≠ .reset)
    (h : ruleState i (ruleState i s) = ruleState i s) : perform i (perform i s) = perform i s := by
  by_cases hp : Performable i s
  · have hp' : Performable i (ruleState i s) := by
      simpa [Performable, (ruleState_started_and_trace hi s).1] using hp
    rw [perform_performable hp, perform_performable hp', h]
  · have hp' : ¬ Performable i s.refuse := hp
    rw [perform_not_performable hp, perform_not_performable hp']
    rfl

/-- Settles O50: the second write finds the level already there, as the second refusal finds the mark. -/
theorem writesAreIdempotent : Obligations.WritesAreIdempotent := by
  intro s t k l i hi h
  obtain rfl : perform i s = t := by simpa [exec_eq_next] using h
  rw [exec_eq_next]
  congr 1
  simp only [List.mem_cons, List.not_mem_nil, or_false] at hi
  rcases hi with rfl | rfl | rfl | rfl | rfl
  · exact perform_perform_of_ruleState nofun
      (by simp [ruleState, State.setRowDrive, setMaskBit_setMaskBit])
  · exact perform_perform_of_ruleState nofun (by simp [ruleState, State.writeWdog_eq, fallingEdge_self])
  · exact perform_perform_of_ruleState nofun (by simp [ruleState, State.driveClock_eq])
  · exact perform_perform_of_ruleState nofun (by simp [ruleState, State.driveData_eq])
  · exact perform_perform_of_ruleState nofun (by simp [ruleState, State.driveKeyboardData_eq])

/-! ### Repeated reads (R35) -/

/-- An event that shows a value `f` of the state, behind a check of the configuration, adds one observation,
and gives the same value again when `f` does not look at the trace. -/
theorem read_again {i : Instr} {op : ReadOp} {idx : Idx} {check : Config → Option RefusalReason}
    {f : State → Mask} {s t : State} {v : Mask}
    (hi : ∀ s, answer i s = guarded (check s.cfg) (fun s => readEvent op idx (f s) s) s)
    (hf : ∀ (s : State) k, f (s.emit k) = f s) (h : answer i s = .value v t) :
    (∃ o, t = { s with trace := s.trace ++ [o] }) ∧ ∃ u, answer i t = .value v u := by
  rw [hi] at h
  rcases guarded_cases (check s.cfg) (fun s => readEvent op idx (f s) s) s with ⟨hc, hs, hg⟩ | ⟨r, hg⟩
  · rw [hg, readEvent] at h
    obtain ⟨rfl, rfl⟩ := Answer.value.inj h
    have hagain : answer i (s.emit (.read op idx (f s))) = _ := (hi _).trans (guarded_passes hc hs)
    rw [hf] at hagain
    exact ⟨⟨_, rfl⟩, _, hagain⟩
  · rw [hg] at h
    cases h

/-- Settles O51: no read's value depends on the trace, the one thing a read changes. -/
theorem readsAreIdempotent : Obligations.ReadsAreIdempotent := by
  intro s t v k i hi h
  simp only [List.mem_cons, List.not_mem_nil, or_false] at hi
  rcases hi with rfl | rfl | rfl | rfl | rfl
  · exact read_again (check := fun _ => none) (f := State.columns) (fun _ => rfl) (fun _ _ => rfl) h
  · exact read_again (check := fun _ => none) (fun _ => rfl) (fun _ _ => rfl) h
  · exact read_again (check := fun c => directCheck c k) (fun _ => rfl) (fun _ _ => rfl) h
  · exact read_again (check := variantCheck) (fun _ => rfl) (fun _ _ => rfl) h
  · exact read_again (check := variantCheck) (fun _ => rfl) (fun _ _ => rfl) h

/-! ### Several instances (R38, R87, R105) -/

namespace System

/-- A block that steps is replaced by its own next state. -/
theorem stepBlock_of_next {y : System} {m : Nat} {s t : State} (hm : y.blocks[m]? = some s)
    (ht : step s = .next t) : (y.stepBlock m).blocks[m]? = some t := by
  simp [stepBlock, hm, ht]

/-- A block that stops stays (log 14). -/
theorem stepBlock_of_stops {y : System} {m : Nat} {s : State} (hm : y.blocks[m]? = some s)
    (hstop : ∀ t, step s ≠ .next t) : (y.stepBlock m).blocks[m]? = some s := by
  cases hs : step s with
  | next t => exact absurd hs (hstop t)
  | fault _ => simp [stepBlock, hm, hs]
  | refused _ => simp [stepBlock, hm, hs]

/-- Every other block stays. -/
theorem stepBlock_getElem?_of_ne {n m : Nat} (y : System) (h : n ≠ m) :
    (y.stepBlock n).blocks[m]? = y.blocks[m]? := by
  simp [stepBlock, h]

/-- The common synchronization point is `SYNC` at each block. -/
theorem syncAll_getElem? {y : System} {m : Nat} {s : State} (h : y.blocks[m]? = some s) :
    y.syncAll.blocks[m]? = some (perform .sync s) := by
  simp [syncAll, h]

end System

/-- Settles O60: a block's step modifies its own entry, and the common `SYNC` maps over the entries. -/
theorem instancesShareNothing : Obligations.InstancesShareNothing := by
  intro y n m s hm
  obtain ⟨-, hevents, hpos⟩ := perform_bookkeeping .sync s
  exact ⟨fun hn => (y.stepBlock_getElem?_of_ne hn).trans hm, fun _ => System.stepBlock_of_next hm,
    System.stepBlock_of_stops hm, List.length_modify .., List.length_map ..,
    perform .sync s, exec_eq_next .sync s, System.syncAll_getElem? hm, hevents, hpos⟩

end Sys2Proof.Machine

/-! The encoding (30_encoding.md): decoding and encoding undo each other, what is refused and why, and the
pseudo-instructions of R50. -/

namespace Sys2Proof

/-! ### How a word parses, and what decoding does then (R44, R49) -/

/-- Each row of the table is found by its operation. -/
theorem lookupOp_op : ∀ r ∈ opcodeTable, lookupOp r.op = some r := by decide

/-- The operation of a word that agrees with a row's match word in bits 31 to 24. -/
theorem opField_of_and_eq {w : Word} {r : OpRow} (h : w &&& 0xFF000000#32 = r.matchWord) :
    opField w = r.op := by
  calc opField w
    _ = opField (w &&& 0xFF000000#32) := by
        rw [opField, opField, BitVec.extractLsb'_and]; exact BitVec.and_allOnes.symm
    _ = opField r.matchWord := by rw [h]
    _ = r.op := BitVec.extractLsb'_append_eq_left

/-- A word of a row's operation parses by that row, which looks at its reserved bits (R44). -/
theorem parseWord_of_row {w : Word} {r : OpRow} (hr : r ∈ opcodeTable)
    (hop : w &&& 0xFF000000#32 = r.matchWord) :
    parseWord w =
      if w &&& r.mask = r.matchWord then .ok (buildEvent r.opcode w) else .error .reservedBits := by
  simp [parseWord, opField_of_and_eq hop, lookupOp_op r hr]

/-- A word parses to an event exactly when it agrees with a row of the table in all the bits of the row's mask,
and the event is the one that row builds (R44, R49). -/
theorem parseWord_eq_ok_iff {w : Word} {i : Instr} :
    parseWord w = .ok i ↔
      ∃ r ∈ opcodeTable, w &&& r.mask = r.matchWord ∧ buildEvent r.opcode w = i := by
  constructor
  · intro h
    unfold parseWord at h
    split at h
    · cases h
    · next r hrow =>
      split at h
      · next hmatch => exact ⟨r, List.mem_of_find?_eq_some hrow, hmatch, Except.ok.inj h⟩
      · cases h
  · rintro ⟨r, hr, hmatch, rfl⟩
    have op_in_mask : ∀ r ∈ opcodeTable, r.mask &&& 0xFF000000#32 = 0xFF000000#32 ∧
        r.matchWord &&& 0xFF000000#32 = r.matchWord := by decide
    obtain ⟨hmask, hop⟩ := op_in_mask r hr
    have hword : w &&& 0xFF000000#32 = r.matchWord := by
      rw [← hmask, ← BitVec.and_assoc, hmatch, hop]
    rw [parseWord_of_row hr hword, if_pos hmatch]

theorem decode_of_parseWord_error {w : Word} {r : RefusalReason} (h : parseWord w = .error r) (c : Config) :
    decode c w = .error r := by
  simp [decode, h]

/-- A word that parses to an event the configured block does not have is refused for the reason admission
gives (R46 to R49). -/
theorem decode_of_not_admitted {c : Config} {w : Word} {i : Instr} {r : RefusalReason}
    (hparse : parseWord w = .ok i) (h : admission c i = some r) : decode c w = .error r := by
  simp [decode, hparse, h]

/-! ### Decoding an encoded event (R49, R50) -/

/-- Settles O1: the word parses to its event, and a well-formed event is admitted. -/
theorem decodeOfEncode : Obligations.DecodeOfEncode := fun c i h =>
  (decode_eq_ok_iff c (encode i) i).mpr ⟨parseWord_encode i, (admission_eq_none_iff c i).mpr h⟩

/-- Settles O8: each word is the encoding of its event, which the configuration has. -/
theorem wordsOfTheSpecDecode : Obligations.WordsOfTheSpecDecode :=
  ⟨decodeOfEncode _ (.wrRow 2 true) (by decide), decodeOfEncode _ (.rdDirect 1) (by decide),
    decodeOfEncode _ (.envKeyrow 0 0x1FE) (by decide), decodeOfEncode _ (.wrWdog false) (by decide),
    decodeOfEncode _ (.advance 61600) (by decide), decodeOfEncode _ (.inHdata true) (by decide),
    decodeOfEncode _ (.wrKdata false) (by decide), decodeOfEncode _ .reset (by decide)⟩

/-! ### Encoding a decoded event (R44, R49)

Each operand field, put back in its place, is the word's own bits there; so the encoding of the event built
from a word has the match word's bits in the places of the mask, and the word's bits elsewhere. -/

/-- A field put back in its place is the word under the field's mask. -/
theorem setWidth_extractLsb'_shiftLeft (w m : Word) {start len : Nat}
    (hm : ∀ j < 32, m.getLsbD j = (decide (start ≤ j) && decide (j < start + len))) :
    (w.extractLsb' start len).setWidth 32 <<< start = w &&& m := by
  refine BitVec.eq_of_getLsbD_eq fun j hj => ?_
  by_cases h : start ≤ j
  · by_cases h' : j < start + len
    · simp [hm j hj, hj, h, h', Nat.not_lt.mpr h, show j - start < len by omega,
        show start + (j - start) = j by omega]
    · simp [hm j hj, h', show ¬ j - start < len by omega]
  · simp [hm j hj, h, Nat.lt_of_not_le h]

theorem idxBits_idxField (w : Word) : idxBits (idxField w) = w &&& 0x00FF0000#32 :=
  setWidth_extractLsb'_shiftLeft w _ (start := 16) (by decide)

theorem setWidth_maskField (w : Word) : (maskField w).setWidth 32 = w &&& 0x000001FF#32 := by
  simpa [maskField] using setWidth_extractLsb'_shiftLeft w 0x000001FF#32 (start := 0) (len := 9) (by decide)

theorem setWidth_deltaField (w : Word) : (deltaField w).setWidth 32 = w &&& 0x00FFFFFF#32 := by
  simpa [deltaField] using
    setWidth_extractLsb'_shiftLeft w 0x00FFFFFF#32 (start := 0) (len := 24) (by decide)

theorem levelBit_levelField (w : Word) : levelBit (levelField w) = w &&& 0x00000001#32 := by
  rw [← setWidth_extractLsb'_shiftLeft w 0x00000001#32 (start := 0) (len := 1) (by decide)]
  refine BitVec.eq_of_getLsbD_eq fun j hj => ?_
  by_cases h0 : j = 0 <;> simp [levelBit, levelField, h0, hj]

/-- A word is its bits in the places of a mask, and its bits elsewhere. -/
theorem and_or_and_not (w m : Word) : (w &&& m) ||| (w &&& ~~~m) = w := by
  rw [← BitVec.and_or_distrib_left, BitVec.or_not_self, BitVec.and_allOnes]

/-- The encoding of the event a row builds from a word: the row's match word, and the word's bits outside the
row's mask. Only three rows have two operands; there those bits are the two fields'. -/
theorem encode_buildEvent {r : OpRow} (hr : r ∈ opcodeTable) (w : Word) :
    encode (buildEvent r.opcode w) = r.matchWord ||| (w &&& ~~~r.mask) := by
  have idx_level : w &&& 0x00FF0001#32 = (w &&& 0x00FF0000#32) ||| (w &&& 0x00000001#32) :=
    BitVec.and_or_distrib_left (x := w) (y := 0x00FF0000#32) (z := 0x00000001#32)
  have idx_mask : w &&& 0x00FF01FF#32 = (w &&& 0x00FF0000#32) ||| (w &&& 0x000001FF#32) :=
    BitVec.and_or_distrib_left (x := w) (y := 0x00FF0000#32) (z := 0x000001FF#32)
  fin_cases hr <;>
    simp [buildEvent, encode, OpRow.matchWord, idxBits_idxField, levelBit_levelField, setWidth_maskField,
      setWidth_deltaField, idx_level, idx_mask, BitVec.or_assoc]

/-- A word that parses is the word of its event. -/
theorem encode_of_parseWord {w : Word} {i : Instr} (h : parseWord w = .ok i) : encode i = w := by
  obtain ⟨r, hr, hmatch, rfl⟩ := parseWord_eq_ok_iff.mp h
  rw [encode_buildEvent hr, ← hmatch, and_or_and_not]

/-- Settles O2: the word parses to the event, and the event is admitted. -/
theorem encodeOfDecode : Obligations.EncodeOfDecode := by
  intro c w i h
  obtain ⟨hparse, hadm⟩ := (decode_eq_ok_iff c w i).mp h
  exact ⟨encode_of_parseWord hparse, (admission_eq_none_iff c i).mp hadm⟩

/-! ### Unassigned operations and reserved bits (R44, R45) -/

/-- The operation is none of the table's (R45). -/
def UnassignedOp (op : Nat) : Prop :=
  (0x06 ≤ op ∧ op ≤ 0x0F) ∨ (0x15 ≤ op ∧ op ≤ 0x1F) ∨ (0x23 ≤ op ∧ op ≤ 0x2F) ∨
    (0x32 ≤ op ∧ op ≤ 0x3F) ∨ 0x42 ≤ op

/-- The operation field, by a shift (R39). -/
theorem toNat_opField (w : Word) : (opField w).toNat = (w >>> 24).toNat := by
  have : w.toNat >>> 24 < 2 ^ 8 := by have := w.isLt; omega
  rw [opField, BitVec.extractLsb'_toNat, BitVec.toNat_ushiftRight, Nat.mod_eq_of_lt this]

theorem lookupOp_of_unassigned {op : BitVec 8} (h : UnassignedOp op.toNat) : lookupOp op = none := by
  have assigned : ∀ r ∈ opcodeTable, ¬ UnassignedOp r.op.toNat := by unfold UnassignedOp; decide
  refine List.find?_eq_none.mpr fun r hr heq => assigned r hr ?_
  rwa [of_decide_eq_true heq]

/-- Settles O3: no row of the table has such an operation, and the lookup comes first. -/
theorem unassignedOpsAreBadOp : Obligations.UnassignedOpsAreBadOp := by
  refine ⟨fun c w h => ?_, Machine.decode_reset_word⟩
  have hrow : lookupOp (opField w) = none := lookupOp_of_unassigned ((toNat_opField w).symm ▸ h)
  exact decode_of_parseWord_error (by simp [parseWord, hrow]) c

/-- A key mask of `2^W` or more is out of range, whatever the row (R48). -/
theorem keyrowCheck_of_mask {c : Config} {m : Mask} (h : 2 ^ c.cols ≤ m.toNat) (r : Idx) :
    keyrowCheck c r m = some .range := by
  simp [keyrowCheck, h]

/-- A bit of the mask field above bit 2 puts the mask at `2^3` or more. -/
theorem two_pow_three_le_maskField {w : Word} (h : w &&& 0x000001F8#32 ≠ 0) :
    2 ^ 3 ≤ (maskField w).toNat := by
  by_contra hlt
  have hbits := (Machine.mask_lt_two_pow_iff (maskField w) 3).mp (Nat.not_le.mp hlt)
  have above : ∀ j < 32, (0x000001F8#32).getLsbD j = true → 3 ≤ j ∧ j < 9 := by decide
  refine h (BitVec.eq_of_getLsbD_eq fun j hj => ?_)
  rw [BitVec.getLsbD_and, BitVec.ofNat_eq_ofNat, BitVec.getLsbD_zero, Bool.and_eq_false_imp]
  intro hw
  by_contra hm
  obtain ⟨h3, h9⟩ := above j hj (by simpa using hm)
  simpa [maskField, h9, hw] using hbits j h3 h9

/-- Settles O4: the pairs are the rows' match words and masks; and a mask bit above `W` puts the mask at
`2^W` or more. -/
theorem reservedBitsAreRefused : Obligations.ReservedBitsAreRefused := by
  refine ⟨fun p hp c w hop hres => ?_, fun c w hc hword hbits => ?_⟩
  · obtain ⟨r, hr, rfl⟩ : ∃ r ∈ opcodeTable, (r.matchWord, r.mask) = p :=
      List.mem_map.mp (List.dropLast_subset _ hp)
    exact decode_of_parseWord_error ((parseWord_of_row hr hop).trans (if_neg hres)) c
  · have hparse : parseWord w = .ok (.envKeyrow (idxField w) (maskField w)) :=
      parseWord_eq_ok_iff.mpr ⟨⟨0x30#8, 0xFF00FE00#32, false, .envKeyrow⟩, by decide, hword, rfl⟩
    have hcols : c.cols = 3 := by simp [Config.cols, Config.rows, hc]
    have hadm : admission c (.envKeyrow (idxField w) (maskField w)) = some .range :=
      keyrowCheck_of_mask (hcols ▸ two_pow_three_le_maskField hbits) _
    exact decode_of_not_admitted hparse hadm

end Sys2Proof

namespace Sys2Proof.Machine

/-! ### Events the configured block does not have (R46 to R48) -/

/-- Such an event is refused for the reason admission gives, as a word and as an event, whatever the
state. -/
theorem refused_of_not_admitted {i : Instr} {s : State} {r : RefusalReason}
    (h : admission s.cfg i = some r) :
    decode s.cfg (encode i) = .error r ∧ answer i s = .refused r ∧
      exec i s = .next { s with refused := true } := by
  have hanswer := answer_not_admitted h
  refine ⟨decode_of_not_admitted (parseWord_encode i) h, hanswer, ?_⟩
  rw [exec_eq_next, perform, hanswer]
  rfl

/-- Settles O5: the variant gate is the only check of these events. -/
theorem keypadEventsRefusedOnKeyboard : Obligations.KeypadEventsRefusedOnKeyboard := by
  intro s l hv i hi
  have hgate : variantCheck s.cfg = some .variant := by simp [variantCheck, hv]
  simp only [List.mem_cons, List.not_mem_nil, or_false] at hi
  rcases hi with rfl | rfl | rfl | rfl | rfl <;> exact refused_of_not_admitted hgate

/-- Settles O6: the range checks fail. -/
theorem outOfRangeOperandsRefused : Obligations.OutOfRangeOperandsRefused := by
  intro s l m k
  refine ⟨fun hk i hi => ?_, fun hk i hi => ?_, fun hm => ?_⟩
  · simp only [List.mem_cons, List.not_mem_nil, or_false] at hi
    rcases hi with rfl | rfl <;> exact refused_of_not_admitted (if_pos hk)
  · simp only [List.mem_cons, List.not_mem_nil, or_false] at hi
    rcases hi with rfl | rfl <;> exact refused_of_not_admitted (if_pos hk)
  · exact refused_of_not_admitted (keyrowCheck_of_mask hm k)

/-! ### The pseudo-instructions (R50) -/

/-- After device start every admitted event but `RESET` does what its rule says. -/
theorem perform_of_started {i : Instr} {s : State} (hi : i ≠ .reset) (ha : admission s.cfg i = none)
    (hs : s.started = true) : perform i s = ruleState i s :=
  perform_performable ⟨ha, by simp [hs, hi]⟩

theorem perform_wrRow {s : State} {r : Idx} (hs : s.started = true) (hr : r.toNat < s.cfg.rows)
    (l : Level) : perform (.wrRow r l) s = s.setRowDrive r.toNat l :=
  perform_of_started (i := .wrRow r l) nofun (if_neg (Nat.not_le.mpr hr)) hs

theorem perform_wrWdog {s : State} (hs : s.started = true) (l : Level) :
    perform (.wrWdog l) s = s.writeWdog l :=
  perform_of_started (i := .wrWdog l) nofun rfl hs

theorem perform_advance {s : State} (hs : s.started = true) (d : Delta) :
    perform (.advance d) s = s.advanceBy d.toNat :=
  perform_of_started (i := .advance d) nofun rfl hs

/-- `WR_ROW` for each of the first `n` rows: those rows take the pattern's bits, and nothing else changes. -/
theorem performAll_rowWrites {s : State} (hs : s.started = true) (p : Mask) {n : Nat}
    (hn : n ≤ s.cfg.rows) :
    ∃ v : Mask,
      performAll ((List.range n).map fun i => .wrRow (BitVec.ofNat 8 i) (p.getLsbD i)) s =
        { s with rowDrive := v } ∧
      ∀ j < 9, v.getLsbD j = if j < n then p.getLsbD j else s.rowDrive.getLsbD j := by
  induction n with
  | zero => exact ⟨s.rowDrive, rfl, by simp⟩
  | succ n ih =>
    obtain ⟨v, hv, hbits⟩ := ih (by omega)
    have hidx : (BitVec.ofNat 8 n).toNat = n := by
      have := rows_le_nine s.cfg
      rw [BitVec.toNat_ofNat, Nat.mod_eq_of_lt (by omega)]
    have hrow : (BitVec.ofNat 8 n).toNat < s.cfg.rows := by omega
    have hlast := perform_wrRow (s := { s with rowDrive := v }) hs hrow (p.getLsbD n)
    refine ⟨setMaskBit v n (p.getLsbD n), ?_, fun j hj => ?_⟩
    · rw [List.range_succ, List.map_append, performAll_append, hv, List.map_singleton, performAll_cons,
        hlast, hidx]
      rfl
    · rw [getLsbD_setMaskBit v n j _ hj, hbits j hj]
      by_cases hjn : j = n
      · simp [hjn]
      · simp [hjn, show j < n + 1 ↔ j < n by omega]

/-- Settles O58: `ROWS P` writes every row the variant has. -/
theorem rowsSetsTheWholePattern : Obligations.RowsSetsTheWholePattern :=
  fun _ p hs => performAll_rowWrites hs p le_rfl

/-- Settles O38: the write of 1 makes no falling edge, so the write of 0 makes one. -/
theorem feedRetriggersWhateverTheLineHeld : Obligations.FeedRetriggersWhateverTheLineHeld := by
  intro s hs
  have high : perform (.wrWdog true) s = { s with wdLine := true } := by
    simp [perform_wrWdog hs, State.writeWdog_eq, fallingEdge]
  have low := perform_wrWdog (s := { s with wdLine := true }) hs false
  rw [feedEvents, performAll_cons, high, performAll_cons, low, performAll_nil, State.writeWdog_eq]
  cases hw : s.wdState <;> simp [fallingEdge]

/-! ### Passages of time add up (R69, `WAIT` of R50)

Firing at an earlier bound first changes nothing of the firing at a later one, and the time that is set
between the two is overwritten in the end. -/

/-- A long expiry that is due is the firing procedure's own first pass (R67). -/
theorem longExpire_fireDue {s : State} {d bound : Nat} {strict : Bool} (hl : s.longDeadline = some d)
    (hd : Due strict d bound) : (s.longExpire d).fireDue bound strict = s.fireDue bound strict := by
  by_cases h : Due strict (d + s.cfg.tShort) bound <;>
    simp [State.fireDue, State.fireDueLoop, State.pendingDeadline, State.expire, hl, hd, h]

/-- So is a short expiry that is due, when no long deadline is pending. -/
theorem shortExpire_fireDue {s : State} {d bound : Nat} {strict : Bool} (hl : s.longDeadline = none)
    (hs : s.shortDeadline = some d) (hd : Due strict d bound) :
    (s.shortExpire d).fireDue bound strict = s.fireDue bound strict := by
  simp [State.fireDue, State.fireDueLoop, State.pendingDeadline, State.expire, hl, hs, hd]

/-- Firing at one bound and then at a later one is firing at the later one. -/
theorem fireDue_fireDue {b₁ b₂ : Nat} {st₁ st₂ : Bool} (h : ∀ d, Due st₁ d b₁ → Due st₂ d b₂) (s : State) :
    (s.fireDue b₁ st₁).fireDue b₂ st₂ = s.fireDue b₂ st₂ :=
  fireDue_induct (P := fun u => u.fireDue b₂ st₂ = s.fireDue b₂ st₂) rfl
    (fun _ d hu hl hd => (longExpire_fireDue hl (h d hd)).trans hu)
    (fun _ d hu hl hs hd => (shortExpire_fireDue hl hs (h d hd)).trans hu)

/-- The firing procedure does not read the time: a time set before it shows only where none is set after. -/
theorem fireDueLoop_setNow (fuel bound : Nat) (strict : Bool) (t n : Nat) (s : State) :
    ((s.setNow t).fireDueLoop fuel bound strict).setNow n = (s.fireDueLoop fuel bound strict).setNow n := by
  cases fuel with
  | zero => rfl
  | succ k =>
    have hpending : (s.setNow t).pendingDeadline = s.pendingDeadline := rfl
    have hexpire (d : Nat) : (s.setNow t).expire d = s.expire d := rfl
    simp only [State.fireDueLoop, hpending, hexpire]
    cases s.pendingDeadline with
    | none => rfl
    | some d =>
      simp only [apply_ite (State.setNow n)]
      rfl

theorem fireDue_setNow (bound : Nat) (strict : Bool) (t n : Nat) (s : State) :
    ((s.setNow t).fireDue bound strict).setNow n = (s.fireDue bound strict).setNow n :=
  fireDueLoop_setNow 2 bound strict t n s

/-- Firing what is due now leaves the time, if no deadline pending is of the past. -/
theorem fireDue_now_of_pending {s : State} (h : ∀ x, s.pendingDeadline = some x → s.now ≤ x) :
    (s.fireDue s.now false).now = s.now := by
  refine (fireDue_induct (P := fun u => u.now = s.now ∧ ∀ x, u.pendingDeadline = some x → s.now ≤ x)
    ⟨rfl, h⟩ ?_ ?_).1
  · rintro u x ⟨-, hu⟩ hl hdue
    have hle := hu x (by simp [State.pendingDeadline, hl])
    refine ⟨(le_of_due hdue).antisymm hle, fun y hy => ?_⟩
    have : x + u.cfg.tShort = y := by simpa [State.pendingDeadline] using hy
    omega
  · rintro u x ⟨-, hu⟩ hl hs hdue
    have hle := hu x (by simp [State.pendingDeadline, hl, hs])
    exact ⟨(le_of_due hdue).antisymm hle, by simp [State.pendingDeadline, hl]⟩

theorem advanceBy_cfg (d : Nat) (s : State) : (s.advanceBy d).cfg = s.cfg := by
  obtain ⟨w, r, L, S, os, n, h⟩ := advanceBy_watchdogMoves d s
  simp [h]

theorem advanceBy_started (d : Nat) (s : State) : (s.advanceBy d).started = s.started := by
  obtain ⟨w, r, L, S, os, n, h⟩ := advanceBy_watchdogMoves d s
  simp [h]

/-- R69, with the timer first. -/
theorem advanceBy_of_timerFirst {s : State} (h : s.cfg.tieOrder = .timerFirst) (d : Nat) :
    s.advanceBy d = (s.fireDue (s.now + d) false).setNow (s.now + d) := by
  simp [State.advanceBy, h]

/-- The second half of R69 with the event first: what comes before the new time fires, and it is set. -/
def State.passBefore (d : Nat) (s : State) : State := (s.fireDue (s.now + d) true).setNow (s.now + d)

/-- R69, with the event first. -/
theorem advanceBy_of_eventFirst {s : State} (h : s.cfg.tieOrder = .eventFirst) (d : Nat) :
    s.advanceBy d = (s.fireDue s.now false).passBefore d := by
  simp [State.advanceBy, State.passBefore, h]

/-- With the event first: firing at the new time, by which no deadline is passed, leaves the time; and to fire
what is due then is to fire what comes before any later time. -/
theorem passBefore_fireDue_passBefore (a : Nat) {b : Nat} (hb : b ≠ 0) (s : State) :
    ((s.passBefore a).fireDue (s.now + a) false).passBefore b = s.passBefore (a + b) := by
  have hnow : ((s.passBefore a).fireDue (s.now + a) false).now = s.now + a := by
    refine fireDue_now_of_pending (s := s.passBefore a) fun x hx => ?_
    have : ¬ x < s.now + a := fireDue_pendingDeadline_not_due (strict := true) hx
    show s.now + a ≤ x
    omega
  have hlater : ∀ d, Due false d (s.now + a) → Due true d (s.now + a + b) := by
    intro d hd
    have : d ≤ s.now + a := hd
    show d < s.now + a + b
    omega
  have hearlier : ∀ d, Due true d (s.now + a) → Due true d (s.now + a + b) :=
    fun d hd => hlater d (le_of_due hd)
  rw [State.passBefore, hnow, fireDue_fireDue hlater, State.passBefore, fireDue_setNow,
    fireDue_fireDue hearlier, State.passBefore, Nat.add_assoc]

/-- Two passages of time are one, from any state: with the timer first always, and with the event first when
the second is not zero (log 9). -/
theorem advanceBy_advanceBy (a : Nat) {b : Nat} {s : State}
    (h : s.cfg.tieOrder = .timerFirst ∨ b ≠ 0) : (s.advanceBy a).advanceBy b = s.advanceBy (a + b) := by
  have hcfg := advanceBy_cfg a s
  cases ht : s.cfg.tieOrder with
  | timerFirst =>
    have hearlier : ∀ d, Due false d (s.now + a) → Due false d (s.now + a + b) :=
      fun d hd => (le_of_due hd).trans (Nat.le_add_right ..)
    rw [advanceBy_of_timerFirst (hcfg ▸ ht), advanceBy_of_timerFirst ht, State.setNow_now, fireDue_setNow,
      fireDue_fireDue hearlier, advanceBy_of_timerFirst ht, Nat.add_assoc]
  | eventFirst =>
    have hb : b ≠ 0 := h.resolve_left (by simp [ht])
    rw [advanceBy_of_eventFirst (hcfg ▸ ht), advanceBy_of_eventFirst ht, advanceBy_of_eventFirst ht]
    exact passBefore_fireDue_passBefore a hb (s.fireDue s.now false)

/-- Passages of the longest interval and a last one are one passage of their sum. -/
theorem performAll_advances (q : Nat) (r : Delta) {s : State} (hs : s.started = true)
    (h : s.cfg.tieOrder = .timerFirst ∨ r.toNat ≠ 0) :
    performAll (List.replicate q (.advance 0xFFFFFF#24) ++ [.advance r]) s =
      s.advanceBy (q * 0xFFFFFF + r.toNat) := by
  induction q generalizing s with
  | zero => simp [perform_advance hs]
  | succ q ih =>
    have hlong : perform (.advance 0xFFFFFF#24) s = s.advanceBy 0xFFFFFF := perform_advance hs _
    rw [List.replicate_succ, List.cons_append, performAll_cons, hlong,
      ih ((advanceBy_started _ s).trans hs) (by rwa [advanceBy_cfg]),
      advanceBy_advanceBy _ (h.imp_right fun hr => by omega)]
    congr 1
    omega

/-- Settles O59: a last passage that is not zero adds to those before it, and the wait of 0 has one passage
alone. -/
theorem waitIsOnePassageOfTime : Obligations.WaitIsOnePassageOfTime := by
  intro s d hs h
  have hlast : (BitVec.ofNat 24 (d % 0xFFFFFF)).toNat = d % 0xFFFFFF := by
    rw [BitVec.toNat_ofNat, Nat.mod_eq_of_lt (by omega)]
  have passages (h : s.cfg.tieOrder = .timerFirst ∨ d % 0xFFFFFF ≠ 0) :
      performAll (waitEvents d) s = s.advanceBy d := by
    rw [waitEvents, performAll_advances _ _ hs (by rwa [hlast]), hlast, Nat.mul_comm, Nat.div_add_mod]
  rcases h with h | h | rfl
  · exact passages (.inl h)
  · exact passages (.inr h)
  · exact perform_advance hs 0

end Sys2Proof.Machine

/-! The matrix and the direct inputs (40_matrix.md), and the frame of every sub-block. -/

namespace Sys2Proof.Machine

/-! ### The column read (R52, R58) -/

/-- The key-state rows whose drive bit is clear, in order (R52). -/
def drivenRows (n : Nat) (rowDrive : Mask) (keyRow : Nat → Mask) : List Mask :=
  ((List.range n).filter (fun i => !rowDrive.getLsbD i)).map keyRow

theorem mem_drivenRows {n : Nat} {rowDrive : Mask} {keyRow : Nat → Mask} {m : Mask} :
    m ∈ drivenRows n rowDrive keyRow ↔ ∃ i < n, rowDrive.getLsbD i = false ∧ keyRow i = m := by
  simp [drivenRows, and_assoc]

/-- The loop of R52 skips the undriven rows, so it is the AND of the driven ones, inverted (R58). -/
theorem readColumns_eq (n w : Nat) (rowDrive : Mask) (keyRow : Nat → Mask) :
    readColumns n w rowDrive keyRow =
      maskOf w ^^^ (drivenRows n rowDrive keyRow).foldr (fun a b => a &&& b) (maskOf w) := by
  rw [readColumns, BitVec.xor_comm, drivenRows, ← List.foldl_eq_foldr, List.foldl_map, List.foldl_filter]
  congr 2
  funext acc i
  cases rowDrive.getLsbD i <;> rfl

/-- A bit of an AND of masks. -/
theorem getLsbD_foldr_and (ms : List Mask) (a : Mask) (j : Nat) :
    (ms.foldr (fun a b => a &&& b) a).getLsbD j = (ms.all (·.getLsbD j) && a.getLsbD j) := by
  induction ms with
  | nil => simp
  | cons m ms ih => simp [ih, Bool.and_assoc]

theorem getLsbD_maskOf {n : Nat} (hn : n ≤ 9) (j : Nat) : (maskOf n).getLsbD j = decide (j < n) := by
  rw [maskOf, BitVec.getLsbD_ofNat, Nat.testBit_two_pow_sub_one]
  by_cases h : j < n
  · simp [h, h.trans_le hn]
  · simp [h]

/-- Settles O24: the loop is the fold over the driven rows, whose list no undriven row enters. -/
theorem undrivenRowsNeverInfluenceTheColumns : Obligations.UndrivenRowsNeverInfluenceTheColumns := by
  refine fun n w rowDrive keyRow keyRow' => ⟨fun h => ?_, readColumns_eq n w rowDrive keyRow⟩
  have same_rows : drivenRows n rowDrive keyRow = drivenRows n rowDrive keyRow' :=
    List.map_congr_left fun i hi => by
      obtain ⟨hn, hdriven⟩ := List.mem_filter.mp hi
      exact h i (List.mem_range.mp hn) (by simpa using hdriven)
  rw [readColumns_eq, readColumns_eq, same_rows]

/-- Settles O23: a bit of the inverted AND is set exactly when some driven row has it clear. -/
theorem columnReadsSomeDrivenPressedKey : Obligations.ColumnReadsSomeDrivenPressedKey := by
  intro n rowDrive keyRow j hn
  have pressed : (drivenRows n rowDrive keyRow).all (·.getLsbD j) = false ↔
      ∃ i < n, rowDrive.getLsbD i = false ∧ (keyRow i).getLsbD j = false := by
    rw [List.all_eq_false]
    constructor
    · rintro ⟨m, hm, hj⟩
      obtain ⟨i, hi, hdriven, rfl⟩ := mem_drivenRows.mp hm
      exact ⟨i, hi, hdriven, by simpa using hj⟩
    · rintro ⟨i, hi, hdriven, hj⟩
      exact ⟨keyRow i, mem_drivenRows.mpr ⟨i, hi, hdriven, rfl⟩, by simp [hj]⟩
  rw [readColumns_eq, BitVec.getLsbD_xor, getLsbD_foldr_and, getLsbD_maskOf hn, ← pressed]
  by_cases hj : j < n <;> simp [hj]

/-- With one row alone driven, the column read is that row inverted (R56). -/
theorem readColumns_of_one_driven {n r : Nat} {rowDrive m : Mask} {keyRow : Nat → Mask} (hn : n ≤ 9)
    (hr : r < n) (honly : ∀ i < n, rowDrive.getLsbD i = false ↔ i = r) (hrow : keyRow r = m)
    (hm : m.toNat < 2 ^ n) : readColumns n n rowDrive keyRow = m ^^^ maskOf n := by
  refine BitVec.eq_of_getLsbD_eq fun j hj => Bool.eq_iff_iff.mpr ?_
  have only_row : (∃ i < n, rowDrive.getLsbD i = false ∧ (keyRow i).getLsbD j = false) ↔
      m.getLsbD j = false := by
    constructor
    · rintro ⟨i, hi, hdriven, hkey⟩
      rwa [(honly i hi).mp hdriven, hrow] at hkey
    · exact fun h => ⟨r, hr, (honly r hr).mpr rfl, hrow ▸ h⟩
  rw [columnReadsSomeDrivenPressedKey n rowDrive keyRow j hn, only_row, BitVec.getLsbD_xor,
    getLsbD_maskOf hn]
  by_cases h : j < n
  · simp [h]
  · simp [h, (mask_lt_two_pow_iff m n).mp hm j (Nat.not_lt.mp h) hj]

/-! ### The events of the matrix (R53 to R57) -/

/-- After device start every admitted event but `RESET` executes its rule. -/
theorem exec_of_started {i : Instr} {s : State} (hi : i ≠ .reset) (ha : admission s.cfg i = none)
    (hs : s.started = true) : exec i s = .next (ruleState i s) := by
  rw [exec_eq_next, perform_of_started hi ha hs]

/-- The state after an event that returns a value. -/
theorem exec_of_answer_value {i : Instr} {s t : State} {v : Mask} (h : answer i s = .value v t) :
    exec i s = .next t := by
  rw [exec_eq_next, perform, h, answer_state_value]

theorem directCheck_of_lt {c : Config} {k : Idx} (h : k.toNat < c.nd) : directCheck c k = none :=
  if_neg (Nat.not_le.mpr h)

theorem keyrowCheck_of_lt {c : Config} {r : Idx} {m : Mask} (hr : r.toNat < c.rows)
    (hm : m.toNat < 2 ^ c.cols) : keyrowCheck c r m = none := by
  simp [keyrowCheck, Nat.not_le.mpr hr, Nat.not_le.mpr hm]

/-- The entries of a list with one entry set. -/
theorem getElem?_set_of_lt {α : Type} {xs : List α} {i : Nat} (h : i < xs.length) (a : α) (j : Nat) :
    (xs.set i a)[j]? = if j = i then some a else xs[j]? := by
  rw [List.getElem?_set, if_pos h]
  simp [eq_comm]

/-- `RD_COLS` after device start (R54). -/
theorem answer_rdCols {s : State} (hs : s.started = true) :
    answer .rdCols s = .value s.columns (s.emit (.read .cols 0 s.columns)) :=
  guarded_passes rfl hs

/-- The level of an input as the firmware sees it, as an unsigned value (R55, R89, R90). -/
theorem levelValue_presented (invert : Bool) (l : Level) :
    levelValue (presented invert l) = if (l != invert) = true then 1 else 0 := by
  cases invert <;> cases l <;> rfl

/-- `RD_DIRECT` after device start, of an input whose level is known (R55). -/
theorem answer_rdDirect {s : State} {k : Idx} {l : Level} (hs : s.started = true)
    (hk : k.toNat < s.cfg.nd) (hl : s.direct[k.toNat]? = some l) :
    answer (.rdDirect k) s =
      .value (if (l != s.cfg.directInvert) = true then 1 else 0)
        (s.emit (.read .direct k (if (l != s.cfg.directInvert) = true then 1 else 0))) := by
  have hlevel : s.directLevel k.toNat = l := by simp [State.directLevel, hl]
  have hpasses : answer (.rdDirect k) s = _ := guarded_passes (directCheck_of_lt hk) hs
  rw [hpasses, readEvent, hlevel, levelValue_presented]

/-- Settles O18: one bit of the row drive is written; the reserved bits are those of the word's row in the
opcode table. -/
theorem wrRowFollowsR53 : Obligations.WrRowFollowsR53 := by
  intro i l s
  refine ⟨rfl, fun w => reservedBitsAreRefused.1 (0x01000000#32, 0xFF00FFFE#32) (by decide) s.cfg w,
    fun hi => ?_, fun hs hi => ?_⟩
  · obtain ⟨hrange, -, -⟩ := outOfRangeOperandsRefused s l 0 i
    exact (hrange hi (.wrRow i l) (by simp)).2
  · exact ⟨setMaskBit s.rowDrive i.toNat l, by rw [exec_eq_next, perform_wrRow hs hi l]; rfl,
      fun j hj => getLsbD_setMaskBit s.rowDrive i.toNat j l hj⟩

/-- Settles O19: every bit of the word but those of its operation is reserved, and the rule shows the
columns. -/
theorem rdColsFollowsR54 : Obligations.RdColsFollowsR54 := by
  refine ⟨rfl, fun c w hop => ?_, fun s hs => ⟨answer_rdCols hs, exec_of_answer_value (answer_rdCols hs)⟩⟩
  by_cases h : w = 0x10000000#32
  · rw [if_pos h, h]
    exact decodeOfEncode c .rdCols (by simp [Instr.wellFormed, Instr.kpdOnly, Instr.inRange])
  · rw [if_neg h]
    refine reservedBitsAreRefused.1 (0x10000000#32, 0xFFFFFFFF#32) (by decide) c w hop ?_
    rwa [show w &&& 0xFFFFFFFF#32 = w from BitVec.and_allOnes]

/-- Settles O20: the level of the list is the one read, in its polarity. -/
theorem rdDirectFollowsR55 : Obligations.RdDirectFollowsR55 := by
  intro k s
  refine ⟨rfl, fun hk => ?_, fun l hs hk hl => ?_⟩
  · obtain ⟨-, hrange, -⟩ := outOfRangeOperandsRefused s true 0 k
    exact (hrange hk (.rdDirect k) (by simp)).2
  · have hanswer := answer_rdDirect hs hk hl
    exact ⟨hanswer, exec_of_answer_value hanswer⟩

/-- Settles O21: one row of the list is set; driven alone, it is what the columns show. -/
theorem envKeyrowFollowsR56 : Obligations.EnvKeyrowFollowsR56 := by
  intro r m s
  refine ⟨rfl, fun h => ?_, fun hs hr hm hlen => ?_⟩
  · obtain ⟨hrow, -, hmask⟩ := outOfRangeOperandsRefused s true m r
    rcases h with h | h
    · exact (hrow h (.envKeyrow r m) (by simp)).2
    · exact (hmask h).2
  · refine ⟨s.keyState.set r.toNat m, exec_of_started (i := .envKeyrow r m) nofun (keyrowCheck_of_lt hr hm) hs,
      by rw [List.length_set, hlen], getElem?_set_of_lt (hlen ▸ hr) m, fun honly => ?_⟩
    have hrow : (s.setKeyRow r.toNat m).keyRow r.toNat = m := by
      simp [State.keyRow, hlen, hr]
    have hcols : (s.setKeyRow r.toNat m).columns = m ^^^ maskOf s.cfg.cols :=
      readColumns_of_one_driven (rows_le_nine s.cfg) hr honly hrow hm
    exact ⟨_, hcols ▸ answer_rdCols (s := s.setKeyRow r.toNat m) hs⟩

/-- Settles O22: one input of the list is set, and the next read of it finds its level there. -/
theorem envDirectFollowsR57 : Obligations.EnvDirectFollowsR57 := by
  intro k l s
  refine ⟨rfl, fun hk => ?_, fun hs hk hlen => ?_⟩
  · obtain ⟨-, hrange, -⟩ := outOfRangeOperandsRefused s l 0 k
    exact (hrange hk (.envDirect k l) (by simp)).2
  · have hset := getElem?_set_of_lt (hlen ▸ hk) l
    exact ⟨s.direct.set k.toNat l,
      exec_of_started (i := .envDirect k l) nofun (directCheck_of_lt hk) hs,
      by rw [List.length_set, hlen], hset, _,
      answer_rdDirect (s := s.setDirect k.toNat l) hs hk ((hset k.toNat).trans (if_pos rfl))⟩

/-! ### The sub-blocks keep apart (R59, R80, R94, R22) -/

/-- The parts of the state that the spec's sub-blocks own, with the queue of R22 as a part of its own. -/
inductive SubBlock where
  | matrix
  | watchdog
  | hostLink
  | keypadLink
  | queue

/-- Two states agree in the fields of a sub-block; the time belongs to the watchdog, whose timers it
runs. -/
def SubBlock.Same (b : SubBlock) (s t : State) : Prop :=
  match b with
  | .matrix => t.rowDrive = s.rowDrive ∧ t.keyState = s.keyState ∧ t.direct = s.direct
  | .watchdog =>
    t.wdLine = s.wdLine ∧ t.wdState = s.wdState ∧ t.resetAsserted = s.resetAsserted ∧
      t.longDeadline = s.longDeadline ∧ t.shortDeadline = s.shortDeadline ∧ t.now = s.now
  | .hostLink => t.clockOut = s.clockOut ∧ t.dataOut = s.dataOut ∧ t.dataIn = s.dataIn
  | .keypadLink => t.kClockIn = s.kClockIn ∧ t.kDataIn = s.kDataIn ∧ t.kDataOut = s.kDataOut
  | .queue => t.syncQ = s.syncQ

/-- The sub-blocks whose fields the rule of an event writes. -/
def blocksWritten (i : Instr) : List SubBlock :=
  match i with
  | .reset => [.matrix, .watchdog, .hostLink, .keypadLink, .queue]
  | .wrRow _ _ | .envKeyrow _ _ | .envDirect _ _ => [.matrix]
  | .wrWdog _ | .advance _ => [.watchdog]
  | .wrHclk _ | .wrHdata _ => [.hostLink]
  | .wrKdata _ => [.keypadLink]
  | .inHdata _ | .inKclk _ | .inKdata _ => [.queue]
  | .sync => [.hostLink, .keypadLink, .queue]
  | .rdCols | .rdHdata | .rdDirect _ | .rdKclk | .rdKdata => []

/-- A rule leaves every sub-block it does not write. -/
theorem ruleState_same {i : Instr} {b : SubBlock} (h : b ∉ blocksWritten i) (s : State) :
    b.Same s (ruleState i s) := by
  cases i with
  | reset => cases b <;> simp [blocksWritten] at h
  | advance d =>
    obtain ⟨w, r, L, S, os, n, hmoves⟩ := advanceBy_watchdogMoves d.toNat s
    cases b <;> simp_all [blocksWritten, SubBlock.Same, ruleState]
  | wrWdog | wrHclk | wrHdata | wrKdata | sync =>
    cases b <;> simp_all [blocksWritten, SubBlock.Same, ruleState, State.writeWdog_eq, State.driveClock_eq,
      State.driveData_eq, State.driveKeyboardData_eq, State.synchronize_eq]
  | _ => cases b <;> simp_all [blocksWritten, SubBlock.Same, ruleState]

/-- So does an event, refused or not. -/
theorem perform_same {i : Instr} {b : SubBlock} (h : b ∉ blocksWritten i) (s : State) :
    b.Same s (perform i s) := by
  rcases perform_cases i s with ⟨-, hp⟩ | ⟨-, hp⟩ <;> rw [hp]
  · exact ruleState_same h s
  · cases b <;> simp [SubBlock.Same]

/-- After device start `RESET` is refused (R84), and changes nothing but the mark. -/
theorem perform_reset_of_started {s : State} (hs : s.started = true) : perform .reset s = s.refuse :=
  perform_not_performable fun hp => hp.ne_reset hs rfl

/-- Only `RESET`, `SYNC` and the inbound changes write the queue (R22). -/
theorem queue_not_mem_blocksWritten {i : Instr} (hr : i ≠ .reset) (hsync : i ≠ .sync)
    (hin : ∀ l, i ≠ .inHdata l ∧ i ≠ .inKclk l ∧ i ≠ .inKdata l) : SubBlock.queue ∉ blocksWritten i := by
  cases i with
  | reset => exact absurd rfl hr
  | sync => exact absurd rfl hsync
  | inHdata l => exact absurd rfl (hin l).1
  | inKclk l => exact absurd rfl (hin l).2.1
  | inKdata l => exact absurd rfl (hin l).2.2
  | _ => simp [blocksWritten]

/-- Settles O53: no event of a list writes the sub-block the list is said to leave; and after device start
`RESET` is refused, so it leaves the queue too. -/
theorem subBlocksKeepApart : Obligations.SubBlocksKeepApart := by
  intro s t k l m d i h
  obtain rfl : perform i s = t := by simpa [exec_eq_next] using h
  have same {b : SubBlock} {is : List Instr} (hb : ∀ i ∈ is, b ∉ blocksWritten i) (hi : i ∈ is) :
      b.Same s (perform i s) := perform_same (hb i hi) s
  refine ⟨same (b := .watchdog) ?_, same (b := .matrix) ?_, same (b := .hostLink) ?_,
    same (b := .keypadLink) ?_, same (b := .queue) ?_, fun hs hsync hin => ?_⟩
  · simp [blocksWritten]
  · simp [blocksWritten]
  · simp [blocksWritten]
  · simp [blocksWritten]
  · simp [blocksWritten]
  · by_cases hr : i = .reset
    · rw [hr, perform_reset_of_started hs, State.refuse_syncQ]
    · exact perform_same (b := .queue) (queue_not_mem_blocksWritten hr hsync hin) s

end Sys2Proof.Machine

/-! The watchdog (41_watchdog.md): the firing procedure case by case, `ADVANCE` as one call of it, and the
supervised line. -/

namespace Sys2Proof.Machine

/-! ### The firing procedure, case by case (R67) -/

/-- With nothing due the firing procedure does nothing. -/
theorem fireDue_eq_self {bound : Nat} {strict : Bool} {s : State}
    (h : ∀ x, s.pendingDeadline = some x → ¬ Due strict x bound) : s.fireDue bound strict = s := by
  rcases fireDue_cases bound strict s with ⟨hf, -⟩ | ⟨x, hl, hd, -⟩ | ⟨x, hl, hd, -⟩ |
    ⟨x, hl, hs, hd, -⟩
  · exact hf
  · exact absurd hd (h x (by simp [State.pendingDeadline, hl]))
  · exact absurd hd (h x (by simp [State.pendingDeadline, hl]))
  · exact absurd hd (h x (by simp [State.pendingDeadline, hl, hs]))

/-- With the short deadline alone pending and due, the reset line is released (R66). -/
theorem fireDue_of_short {bound S : Nat} {strict : Bool} {s : State} (hl : s.longDeadline = none)
    (hs : s.shortDeadline = some S) (hd : Due strict S bound) :
    s.fireDue bound strict = s.shortExpire S := by
  rw [← shortExpire_fireDue hl hs hd]
  exact fireDue_eq_self (by simp [State.pendingDeadline, hl])

/-- With the long deadline due, and not the short one it arms, the reset line is asserted (R65). -/
theorem fireDue_of_long {bound L : Nat} {strict : Bool} {s : State} (hl : s.longDeadline = some L)
    (hd : Due strict L bound) (hn : ¬ Due strict (L + s.cfg.tShort) bound) :
    s.fireDue bound strict = s.longExpire L := by
  rw [← longExpire_fireDue hl hd]
  exact fireDue_eq_self (by simpa [State.pendingDeadline] using hn)

/-- With both the long deadline and the short one it arms due, one call fires both expiries. -/
theorem fireDue_of_long_short {bound L : Nat} {strict : Bool} {s : State} (hl : s.longDeadline = some L)
    (hd : Due strict L bound) (hd' : Due strict (L + s.cfg.tShort) bound) :
    s.fireDue bound strict = (s.longExpire L).shortExpire (L + s.cfg.tShort) := by
  rw [← longExpire_fireDue hl hd]
  exact fireDue_of_short rfl rfl hd'

/-- Settles O32: a deadline that is left is the one the firing procedure looked at last. -/
theorem firingLeavesNothingDue : Obligations.FiringLeavesNothingDue := by
  intro s bound d strict h
  have hpending : (s.fireDue bound strict).pendingDeadline = some d := by
    rcases h with hl | ⟨hl, hs⟩
    · simp [State.pendingDeadline, hl]
    · simp [State.pendingDeadline, hl, hs]
  have hdue := fireDue_pendingDeadline_not_due hpending
  cases strict
  · exact Nat.not_le.mp hdue
  · exact Nat.not_lt.mp hdue

/-! ### `ADVANCE` as one call of the firing procedure (R68, R69) -/

namespace State

theorem reaches_of_timerFirst {s : State} (h : s.cfg.tieOrder = .timerFirst) (d t : Nat) :
    s.Reaches d t ↔ t ≤ s.now + d := by
  simp [Reaches, h]

theorem reaches_of_eventFirst {s : State} (h : s.cfg.tieOrder = .eventFirst) (d t : Nat) :
    s.Reaches d t ↔ t ≤ s.now ∨ t < s.now + d := by
  simp [Reaches, h]

/-- A passage of time that reaches a deadline reaches every earlier one. -/
theorem Reaches.mono {s : State} {d t u : Nat} (h : s.Reaches d u) (htu : t ≤ u) : s.Reaches d t := by
  cases ho : s.cfg.tieOrder with
  | timerFirst =>
    rw [reaches_of_timerFirst ho] at h ⊢
    exact htu.trans h
  | eventFirst =>
    rw [reaches_of_eventFirst ho] at h ⊢
    exact h.imp htu.trans htu.trans_lt

/-- Under R21 and either tie order `ADVANCE` is one call of the firing procedure, at which the deadlines it
reaches are due; then the time is set. With the event first, the two calls of R69 are the later one when time
passes, and the earlier one when none does. -/
theorem WatchdogOk.advanceBy_eq_fireDue {s : State} (h : s.WatchdogOk) (d : Nat) :
    ∃ bound strict, s.advanceBy d = (s.fireDue bound strict).setNow (s.now + d) ∧
      ∀ t, Due strict t bound ↔ s.Reaches d t := by
  cases ho : s.cfg.tieOrder with
  | timerFirst =>
    exact ⟨s.now + d, false, advanceBy_of_timerFirst ho d, fun t => (reaches_of_timerFirst ho d t).symm⟩
  | eventFirst =>
    have hcalls : s.advanceBy d =
        ((s.fireDue s.now false).fireDue (s.now + d) true).setNow (s.now + d) := by
      rw [advanceBy_of_eventFirst ho, passBefore, h.fireDue_now]
    by_cases hd : d = 0
    · subst hd
      have hsecond : (s.fireDue s.now false).fireDue (s.now + 0) true = s.fireDue s.now false :=
        fireDue_eq_self fun x hx hdue => fireDue_pendingDeadline_not_due hx (le_of_due hdue)
      refine ⟨s.now, false, hcalls.trans (by rw [hsecond]), fun t => ?_⟩
      rw [reaches_of_eventFirst ho]
      show t ≤ s.now ↔ _
      omega
    · have hlater : ∀ t, Due false t s.now → Due true t (s.now + d) := by
        intro t ht
        have : t ≤ s.now := ht
        show t < s.now + d
        omega
      refine ⟨s.now + d, true, hcalls.trans (by rw [fireDue_fireDue hlater]), fun t => ?_⟩
      rw [reaches_of_eventFirst ho]
      show t < s.now + d ↔ _
      omega

/-- `ADVANCE` that does not reach the pending deadline only lets the time pass. -/
theorem WatchdogOk.advanceBy_of_not_reached {s : State} {d : Nat} (h : s.WatchdogOk)
    (hn : ∀ x, s.pendingDeadline = some x → ¬ s.Reaches d x) :
    s.advanceBy d = s.setNow (s.now + d) := by
  obtain ⟨bound, strict, hadv, hdue⟩ := h.advanceBy_eq_fireDue d
  rw [hadv, fireDue_eq_self fun x hx => mt (hdue x).mp (hn x hx)]

/-- R21: in ARMED no timer runs and the reset line is released. -/
theorem WatchdogOk.of_armed {s : State} (h : s.WatchdogOk) (hw : s.wdState = .armed) :
    s.longDeadline = none ∧ s.shortDeadline = none ∧ s.resetAsserted = false := by
  obtain ⟨harmed, -, -⟩ := h
  exact harmed hw

/-- R21: while the short timer runs, the long one does not. -/
theorem WatchdogOk.longDeadline_eq_none {s : State} {x : Nat} (h : s.WatchdogOk)
    (hs : s.shortDeadline = some x) : s.longDeadline = none := by
  rcases h.cases with ⟨-, hl, -⟩ | ⟨_, -, -, -, hs', -⟩ | ⟨_, -, hl, -⟩
  · exact hl
  · simp [hs'] at hs
  · exact hl

/-- `ADVANCE` that reaches the short deadline releases the reset line (R66, R101). -/
theorem WatchdogOk.advanceBy_of_short {s : State} {d S : Nat} (h : s.WatchdogOk)
    (hs : s.shortDeadline = some S) (hS : s.Reaches d S) :
    s.advanceBy d = (s.shortExpire S).setNow (s.now + d) := by
  obtain ⟨bound, strict, hadv, hdue⟩ := h.advanceBy_eq_fireDue d
  rw [hadv, fireDue_of_short (h.longDeadline_eq_none hs) hs ((hdue S).mpr hS)]

/-- `ADVANCE` that reaches the long deadline, and not the end of the pulse, asserts the reset line (R65,
R100). -/
theorem WatchdogOk.advanceBy_of_long {s : State} {d L : Nat} (h : s.WatchdogOk)
    (hl : s.longDeadline = some L) (hL : s.Reaches d L) (hn : ¬ s.Reaches d (L + s.cfg.tShort)) :
    s.advanceBy d = (s.longExpire L).setNow (s.now + d) := by
  obtain ⟨bound, strict, hadv, hdue⟩ := h.advanceBy_eq_fireDue d
  rw [hadv, fireDue_of_long hl ((hdue L).mpr hL) (mt (hdue _).mp hn)]

/-- `ADVANCE` that reaches the end of the pulse asserts the reset line and releases it. -/
theorem WatchdogOk.advanceBy_of_long_short {s : State} {d L : Nat} (h : s.WatchdogOk)
    (hl : s.longDeadline = some L) (hS : s.Reaches d (L + s.cfg.tShort)) :
    s.advanceBy d = ((s.longExpire L).shortExpire (L + s.cfg.tShort)).setNow (s.now + d) := by
  obtain ⟨bound, strict, hadv, hdue⟩ := h.advanceBy_eq_fireDue d
  have hL : s.Reaches d L := hS.mono (Nat.le_add_right ..)
  rw [hadv, fireDue_of_long_short hl ((hdue L).mpr hL) ((hdue _).mpr hS)]

/-- The invariant of a started device holds R21. -/
theorem Inv.watchdogOk {s : State} (h : s.Inv) (hs : s.started = true) : s.WatchdogOk :=
  (h.2 hs).1

end State

theorem exec_advance {s : State} (hs : s.started = true) (d : Delta) :
    exec (.advance d) s = .next (s.advanceBy d.toNat) :=
  exec_of_started (i := .advance d) nofun rfl hs

/-- Settles O26: one case for each deadline that may be pending and each that may be reached. -/
theorem advanceFiresTheDueDeadlines : Obligations.AdvanceFiresTheDueDeadlines := by
  intro d s hinv hs
  have hok := hinv.watchdogOk hs
  rw [exec_advance hs]
  refine ⟨fun hw => ?_, fun L _ hl => ⟨fun hn => ?_, fun hL hn => ?_, fun _ hS => ?_⟩,
    fun S _ hsd => ⟨fun hn => ?_, fun hS => ?_⟩⟩
  · obtain ⟨hl, hsd, -⟩ := hok.of_armed hw
    rw [hok.advanceBy_of_not_reached (by simp [State.pendingDeadline, hl, hsd])]
    rfl
  · rw [hok.advanceBy_of_not_reached (by simpa [State.pendingDeadline, hl] using hn)]
    rfl
  · rw [hok.advanceBy_of_long hl hL hn]
    rfl
  · rw [hok.advanceBy_of_long_short hl hS]
    simp [State.setNow, State.shortExpire, State.longExpire]
  · obtain ⟨hpending, -⟩ := hok.pending (.inr hsd)
    rw [hok.advanceBy_of_not_reached (by simpa [hpending] using hn)]
    rfl
  · rw [hok.advanceBy_of_short hsd hS]
    rfl

/-- Settles O31: with the event first a passage that ends on a deadline does not reach it, and the passage of
no time after it does. -/
theorem advanceZeroFiresATiedDeadline : Obligations.AdvanceZeroFiresATiedDeadline := by
  intro a s hinv hs ho ha
  have hok := hinv.watchdogOk hs
  have hnot : ¬ s.Reaches a.toNat (s.now + a.toNat) := by
    have : a.toNat ≠ 0 := fun h => ha (BitVec.eq_of_toNat_eq h)
    rw [State.reaches_of_eventFirst ho]
    omega
  have hzero : (s.setNow (s.now + a.toNat)).Reaches 0 (s.now + a.toNat) :=
    (State.reaches_of_eventFirst (s := s.setNow (s.now + a.toNat)) ho _ _).mpr (.inl le_rfl)
  have hpulse : ¬ (s.setNow (s.now + a.toNat)).Reaches 0 (s.now + a.toNat + s.cfg.tShort) := by
    obtain ⟨-, hT, -⟩ := (config_wf_iff s.cfg).mp hinv.1
    rw [State.reaches_of_eventFirst (s := s.setNow (s.now + a.toNat)) ho, State.setNow_now]
    omega
  have hexec := exec_advance (s := s.setNow (s.now + a.toNat)) hs 0
  have tied (hp : s.pendingDeadline = some (s.now + a.toNat)) :
      exec (.advance a) s = .next (s.setNow (s.now + a.toNat)) ∧
        (s.setNow (s.now + a.toNat)).WatchdogOk := by
    rw [exec_advance hs, hok.advanceBy_of_not_reached (by simpa [hp] using hnot)]
    exact ⟨rfl, hok.setNow (by simp [hp])⟩
  refine ⟨fun _ hl => ?_, fun _ hsd => ?_⟩
  · obtain ⟨hfirst, hok'⟩ := tied (hok.pending (.inl hl)).1
    refine ⟨hfirst, hexec.trans ?_⟩
    exact congrArg Host.Outcome.next (hok'.advanceBy_of_long hl hzero hpulse)
  · obtain ⟨hfirst, hok'⟩ := tied (hok.pending (.inr hsd)).1
    refine ⟨hfirst, hexec.trans ?_⟩
    exact congrArg Host.Outcome.next (hok'.advanceBy_of_short hsd hzero)

/-- Settles O30: the sum of the increments does not wrap, so it is the sum of the passages. -/
theorem advancesAddUp : Obligations.AdvancesAddUp := by
  intro a b s t hs hsum h hexec
  obtain rfl : s.advanceBy a.toNat = t := by simpa [exec_advance hs] using hexec
  have hadd : (a + b).toNat = a.toNat + b.toNat := by rw [BitVec.toNat_add, Nat.mod_eq_of_lt hsum]
  have hb : s.cfg.tieOrder = .timerFirst ∨ b.toNat ≠ 0 :=
    h.imp_right fun hb h0 => hb (BitVec.eq_of_toNat_eq h0)
  rw [exec_advance ((advanceBy_started _ s).trans hs), exec_advance hs, hadd, advanceBy_advanceBy _ hb]

/-! ### What `ADVANCE` leaves unchanged (R72) -/

/-- The trace of `u` is that of `s` with notifications of the reset line added. -/
def ShowsResetLineAlone (s u : State) : Prop :=
  ∃ shown : List Obs, u.trace = s.trace ++ shown ∧ ∀ o ∈ shown, ∃ l, o.kind = .out .reset l

theorem ShowsResetLineAlone.refl (s : State) : ShowsResetLineAlone s s :=
  ⟨[], by simp, nofun⟩

theorem ShowsResetLineAlone.snoc {s u v : State} {x : Nat} {l : Level} (h : ShowsResetLineAlone s u)
    (hv : v.trace = u.trace ++ [⟨x, .out .reset l⟩]) : ShowsResetLineAlone s v := by
  obtain ⟨shown, hu, hreset⟩ := h
  refine ⟨shown ++ [⟨x, .out .reset l⟩], by rw [hv, hu, List.append_assoc], fun o ho => ?_⟩
  rcases List.mem_append.mp ho with ho | ho
  · exact hreset o ho
  · exact ⟨l, by rw [List.mem_singleton.mp ho]⟩

/-- Each expiry that `ADVANCE` fires shows the reset line, and nothing else of it is shown. -/
theorem advanceBy_showsResetLineAlone (d : Nat) (s : State) : ShowsResetLineAlone s (s.advanceBy d) := by
  obtain ⟨u, n, hu, heq, -⟩ :=
    advanceBy_induct (P := ShowsResetLineAlone s) (d := d) (.refl s)
      (fun _ _ hu _ _ => hu.snoc rfl) (fun _ _ hu _ _ _ => hu.snoc rfl)
  rw [heq]
  exact hu

/-- Settles O27: what `ADVANCE` moves, and what its expiries show. -/
theorem advanceKeepsTheRestOfTheBlock : Obligations.AdvanceKeepsTheRestOfTheBlock := by
  intro d s t hs h
  obtain rfl : s.advanceBy d.toNat = t := by simpa [exec_advance hs] using h
  refine ⟨?_, advanceBy_showsResetLineAlone d.toNat s⟩
  obtain ⟨w, r, L, S, os, n, hmoves⟩ := advanceBy_watchdogMoves d.toNat s
  rw [hmoves]

/-! ### The supervised line (R60 to R64) -/

theorem exec_wrWdog {s : State} (hs : s.started = true) (l : Level) :
    exec (.wrWdog l) s = .next (s.writeWdog l) :=
  exec_of_started (i := .wrWdog l) nofun rfl hs

/-- Settles O25: no edge records the level alone, and a falling edge acts by the watchdog's state. -/
theorem wrWdogFollowsR60 : Obligations.WrWdogFollowsR60 := by
  intro l s
  refine ⟨rfl, fun hs => ?_⟩
  rw [exec_wrWdog hs, State.writeWdog_eq]
  refine ⟨fun hedge => ?_, fun h1 h0 hw => ?_, fun h1 h0 hw => ?_, fun h1 h0 hw => ?_⟩
  · have : fallingEdge s.wdLine l = false := by simpa [fallingEdge] using hedge
    simp [this]
  · simp [fallingEdge, h1, h0, hw]
  · simp [fallingEdge, h1, h0, hw]
  · simp [fallingEdge, h1, h0, hw]

/-- A write of the supervised line keeps R21 and a started device. -/
theorem watchdogOk_of_exec_wrWdog {s t : State} {l : Level} (hinv : s.Inv) (hs : s.started = true)
    (h : exec (.wrWdog l) s = .next t) : t.WatchdogOk ∧ t.started = true := by
  obtain rfl : s.writeWdog l = t := by simpa [exec_wrWdog hs] using h
  obtain ⟨hwf, hstarted⟩ := (State.inv_iff s).mp hinv
  obtain ⟨hT, -⟩ := (config_wf_iff s.cfg).mp hwf
  exact ⟨((hstarted hs).1.writeWdog hT l).1, by rw [State.writeWdog_eq]; exact hs⟩

/-- Settles O28: the edge arms the long timer, and the passage reaches the end of the pulse, so both expiries
fire and leave the watchdog as it was before the edge. -/
theorem oneEdgeGivesOneResetPulse : Obligations.OneEdgeGivesOneResetPulse := by
  intro s t d hinv hs hw h1 hedge hreach
  obtain ⟨hok, ht⟩ := watchdogOk_of_exec_wrWdog hinv hs hedge
  rw [exec_advance ht]
  obtain ⟨-, harmed, -⟩ := (wrWdogFollowsR60 false s).2 hs
  obtain rfl := Host.Outcome.next.inj ((harmed h1 rfl hw).symm.trans hedge)
  obtain ⟨hl, hsd, hr⟩ := (hinv.watchdogOk hs).of_armed hw
  rw [hok.advanceBy_of_long_short rfl hreach]
  simp [State.setNow, State.shortExpire, State.longExpire, hw, hl, hsd, hr]

/-- Settles O29: the edge replaces the long deadline, and the passage does not reach the new one. -/
theorem retriggerRestartsTheWindow : Obligations.RetriggerRestartsTheWindow := by
  intro s t d hinv hs hw h1 hedge hreach
  obtain ⟨hok, ht⟩ := watchdogOk_of_exec_wrWdog hinv hs hedge
  rw [exec_advance ht]
  obtain ⟨-, -, hcounting, -⟩ := (wrWdogFollowsR60 false s).2 hs
  obtain rfl := Host.Outcome.next.inj ((hcounting h1 rfl hw).symm.trans hedge)
  rw [hok.advanceBy_of_not_reached (by simpa [State.pendingDeadline] using hreach)]
  rfl

/-- Settles O36: after device start `RESET` is refused, an edge is recorded and ignored, and the other events
leave the watchdog alone. -/
theorem eventsCannotTouchTheResetPulse : Obligations.EventsCannotTouchTheResetPulse := by
  intro i s t hs hw ha h
  obtain rfl : perform i s = t := by simpa [exec_eq_next] using h
  rcases perform_cases i s with ⟨hp, hperform⟩ | ⟨-, hperform⟩ <;> rw [hperform]
  · by_cases hwdog : ∃ l, i = .wrWdog l
    · obtain ⟨l, rfl⟩ := hwdog
      simp [ruleState, State.writeWdog_eq, hw]
    · obtain ⟨hst, hl, hsd, hr, hnow⟩ :=
        ruleState_watchdog_frame (hp.ne_reset hs) (not_exists.mp hwdog) ha s
      exact ⟨hst.trans hw, hr, hl, hsd, hnow⟩
  · exact ⟨hw, rfl, rfl, rfl, rfl⟩

end Sys2Proof.Machine

/-! The Host Link (42_hostlink.md): the two output lines, the read of the host's level, and the inbound
changes that wait for `SYNC`. -/

namespace Sys2Proof.Machine

/-! ### The output lines (R73, R74) -/

/-- Settles O39: the rule of R73 shows an observation exactly when the level changes. -/
theorem wrHclkFollowsR73 : Obligations.WrHclkFollowsR73 := by
  intro l s
  refine ⟨rfl, fun hs => ?_⟩
  have hexec : exec (.wrHclk l) s = .next (s.driveClock l) := exec_of_started nofun rfl hs
  rw [hexec, State.driveClock_eq]
  constructor
  · rintro rfl
    simp
  · intro hne
    rw [if_neg hne]

/-- Settles O40: the rule of R74 shows an observation exactly when the level changes. -/
theorem wrHdataFollowsR74 : Obligations.WrHdataFollowsR74 := by
  intro l s
  refine ⟨rfl, fun hs => ?_⟩
  have hexec : exec (.wrHdata l) s = .next (s.driveData l) := exec_of_started nofun rfl hs
  rw [hexec, State.driveData_eq]
  constructor
  · rintro rfl
    simp
  · intro hne
    rw [if_neg hne]

/-! ### The read of the host's level (R75) -/

/-- A level inverted, as an unsigned value. -/
theorem levelValue_not (l : Level) : levelValue (!l) = if l = true then 0 else 1 := by
  cases l <;> rfl

/-- `RD_HDATA` after device start (R75). -/
theorem answer_rdHdata {s : State} (hs : s.started = true) :
    answer .rdHdata s =
      .value (if s.dataIn = true then 0 else 1)
        (s.emit (.read .hdata 0 (if s.dataIn = true then 0 else 1))) := by
  have hpasses : answer .rdHdata s = _ := guarded_passes rfl hs
  rw [hpasses, readEvent, levelValue_not]

/-- Settles O42: the value is made of the host's level alone. -/
theorem rdHdataFollowsR75 : Obligations.RdHdataFollowsR75 :=
  ⟨rfl, fun _ hs => ⟨answer_rdHdata hs, exec_of_answer_value (answer_rdHdata hs)⟩⟩

/-! ### The queue and the synchronization point (R76 to R78, R91, R92) -/

/-- Settles O44: each is one `defer`, behind the variant gate for the keypad's lines. -/
theorem inboundChangesAreQueued : Obligations.InboundChangesAreQueued := by
  intro l s
  refine ⟨rfl, rfl, rfl, fun hs => exec_of_started (i := .inHdata l) nofun rfl hs, fun hs hv => ?_,
    fun hv i hi => ?_⟩
  · have hgate : variantCheck s.cfg = none := by simp [variantCheck, hv]
    exact ⟨exec_of_started (i := .inKclk l) nofun hgate hs, exec_of_started (i := .inKdata l) nofun hgate hs⟩
  · have hkeypad : i ∈ [Instr.wrKdata l, .rdKclk, .rdKdata, .inKclk l, .inKdata l] :=
      List.mem_append_right [Instr.wrKdata l, .rdKclk, .rdKdata] hi
    exact (keypadEventsRefusedOnKeyboard s l hv i hkeypad).2

/-- An entry queued last is the last of its line, and no entry of another line. -/
theorem lastLevel_concat (line : Line) (before : Level) (q : List (Line × Level)) (e : Line × Level) :
    lastLevel line before (q ++ [e]) = if e.1 = line then e.2 else lastLevel line before q := by
  by_cases h : e.1 = line <;> simp [lastLevel, h]

theorem perform_sync {s : State} (hs : s.started = true) : perform .sync s = s.synchronize :=
  perform_of_started (i := .sync) nofun rfl hs

theorem perform_inHdata {s : State} (hs : s.started = true) (l : Level) :
    perform (.inHdata l) s = s.defer .hdata l :=
  perform_of_started (i := .inHdata l) nofun rfl hs

/-- Settles O45: the queue is applied entry by entry, which leaves the last level of each line. -/
theorem syncAppliesTheWholeQueue : Obligations.SyncAppliesTheWholeQueue := by
  refine ⟨rfl, fun s hs => ?_, fun s l hs => ?_⟩
  · rw [exec_eq_next, perform_sync hs, State.synchronize_eq]
  · have hdefer : (s.defer .hdata l).started = true := hs
    rw [hostDataEvents, performAll_cons, perform_inHdata hs, performAll_cons, perform_sync hdefer,
      performAll_nil, State.synchronize_eq]
    simp [State.defer, lastLevel_concat]

/-! ### An inbound host level waits for `SYNC` (R37, R80, R109) -/

/-- The host level the next `SYNC` applies: that of the last entry of its line that waits, or the level
already applied (R78). -/
def State.awaitedDataIn (s : State) : Level := lastLevel .hdata s.dataIn s.syncQ

@[simp] theorem State.synchronize_dataIn (s : State) : s.synchronize.dataIn = s.awaitedDataIn := by
  rw [State.synchronize_eq, State.awaitedDataIn]

@[simp] theorem State.synchronize_started (s : State) : s.synchronize.started = s.started := by
  rw [State.synchronize_eq]

@[simp] theorem State.defer_awaitedDataIn (s : State) (line : Line) (l : Level) :
    (s.defer line l).awaitedDataIn = if line = .hdata then l else s.awaitedDataIn :=
  lastLevel_concat .hdata s.dataIn s.syncQ (line, l)

/-- Only `SYNC` applies a host level, after device start (R37). -/
theorem ruleState_dataIn {i : Instr} (hr : i ≠ .reset) (hsync : i ≠ .sync) (s : State) :
    (ruleState i s).dataIn = s.dataIn := by
  by_cases hlink : .hostLink ∈ blocksWritten i
  · cases i with
    | reset => exact absurd rfl hr
    | sync => exact absurd rfl hsync
    | wrHclk l => simp [ruleState, State.driveClock_eq]
    | wrHdata l => simp [ruleState, State.driveData_eq]
    | _ => simp [blocksWritten] at hlink
  · obtain ⟨-, -, hdataIn⟩ := ruleState_same hlink s
    exact hdataIn

/-- Only an inbound host change and `SYNC` move the host level that waits; the keypad's inbound changes
queue entries of other lines. -/
theorem ruleState_awaitedDataIn {i : Instr} (hr : i ≠ .reset) (hsync : i ≠ .sync)
    (hin : ∀ l, i ≠ .inHdata l) (s : State) : (ruleState i s).awaitedDataIn = s.awaitedDataIn := by
  by_cases hqueue : .queue ∈ blocksWritten i
  · cases i with
    | reset => exact absurd rfl hr
    | sync => exact absurd rfl hsync
    | inHdata l => exact absurd rfl (hin l)
    | inKclk l => exact s.defer_awaitedDataIn .kclk l
    | inKdata l => exact s.defer_awaitedDataIn .kdata l
    | _ => simp [blocksWritten] at hqueue
  · have hq : (ruleState i s).syncQ = s.syncQ := ruleState_same hqueue s
    rw [State.awaitedDataIn, State.awaitedDataIn, hq, ruleState_dataIn hr hsync]

/-- A property of a started device that a refusal and the rules of the listed events keep is kept by the
whole list, and the device stays started. -/
theorem performAll_preserves {P : State → Prop} {is : List Instr} (hrefuse : ∀ s, P s → P s.refuse)
    (hrule : ∀ i ∈ is, i ≠ .reset → ∀ s, P s → P (ruleState i s)) {s : State} (hs : s.started = true)
    (h : P s) : (performAll is s).started = true ∧ P (performAll is s) := by
  induction is generalizing s with
  | nil => exact ⟨hs, h⟩
  | cons i is ih =>
    have htail : ∀ j ∈ is, j ≠ .reset → ∀ s, P s → P (ruleState j s) :=
      fun j hj => hrule j (List.mem_cons_of_mem i hj)
    rw [performAll_cons]
    rcases perform_cases i s with ⟨hp, hperform⟩ | ⟨-, hperform⟩ <;> rw [hperform]
    · have hi := hp.ne_reset hs
      obtain ⟨hstarted, -⟩ := ruleState_started_and_trace hi s
      exact ih htail (hstarted.trans hs) (hrule i List.mem_cons_self hi s h)
    · exact ih htail hs (hrefuse s h)

/-- Settles O46: until the next `SYNC` the level applied stays the one of before; the level that waits stays
the one queued, until a later host change is queued. -/
theorem inboundLevelIsSeenAfterSyncOnly : Obligations.InboundLevelIsSeenAfterSyncOnly := by
  intro is l s hs hsync
  have ne_sync {i : Instr} (hi : i ∈ is) : i ≠ .sync := fun h => hsync (h ▸ hi)
  have hdefer : (s.defer .hdata l).started = true := hs
  dsimp only
  rw [performAll_cons, perform_inHdata hs]
  constructor
  · obtain ⟨hstarted, hsame⟩ := performAll_preserves (P := fun t => t.dataIn = s.dataIn) (is := is)
      (fun _ h => h) (fun i hi hr t h => (ruleState_dataIn hr (ne_sync hi) t).trans h) hdefer rfl
    exact ⟨_, hsame ▸ answer_rdHdata hstarted⟩
  · intro hin
    obtain ⟨hstarted, hwaits⟩ := performAll_preserves (P := fun t => t.awaitedDataIn = l) (is := is)
      (fun _ h => h)
      (fun i hi hr t h => (ruleState_awaitedDataIn hr (ne_sync hi) (fun l' hl => hin l' (hl ▸ hi)) t).trans h)
      hdefer (s.defer_awaitedDataIn .hdata l)
    rw [perform_sync hstarted, answer_rdHdata (by rwa [State.synchronize_started]), State.synchronize_dataIn,
      hwaits]
    exact ⟨_, rfl⟩

end Sys2Proof.Machine

/-! The step and physical pins (43_core.md): one word applied, device start, and the role writes and reads
a pin consists of. -/

namespace Sys2Proof.Machine

/-! ### One word applied (R85) -/

/-- A step with an event left takes the word and applies it. -/
theorem step_eq_runWord {s : State} {w : Word} {rest : List Word} (he : s.events = w :: rest) :
    step s = runWord w (s.fetched rest) := by
  simp [step, stepEvent, he]

theorem wordAnswer_of_decode_ok {s : State} {w : Word} {i : Instr} (h : decode s.cfg w = .ok i) :
    wordAnswer w s = answer i s := by
  simp [wordAnswer, h]

theorem wordAnswer_of_decode_error {s : State} {w : Word} {r : RefusalReason}
    (h : decode s.cfg w = .error r) : wordAnswer w s = .refused r := by
  simp [wordAnswer, h]

theorem runWord_of_decode_ok {s : State} {w : Word} {i : Instr} (h : decode s.cfg w = .ok i) :
    runWord w s = exec i s := by
  simp [runWord, h]

/-- A refused word leaves the mark (R97). -/
theorem runWord_of_refused {s : State} {w : Word} {r : RefusalReason} (h : wordAnswer w s = .refused r) :
    runWord w s = .next s.refuse := by
  rw [runWord_eq_next, h, answer_state_refused]

/-- Settles O9: taking the word leaves the configuration it is decoded by. -/
theorem stepRunsTheDecodedEvent : Obligations.StepRunsTheDecodedEvent := by
  intro s w rest i he hd
  have hfetched : decode (s.fetched rest).cfg w = .ok i := hd
  rw [step_eq_runWord he, runWord_of_decode_ok hfetched, State.fetched]

/-- Settles O10: the reason decoding gives is the answer, before the word is taken and after. -/
theorem stepRefusesAnUndecodableWord : Obligations.StepRefusesAnUndecodableWord := by
  intro s w rest r he hd
  have hfetched : decode (s.fetched rest).cfg w = .error r := hd
  refine ⟨wordAnswer_of_decode_error hd, ?_⟩
  rw [step_eq_runWord he, runWord_of_refused (wordAnswer_of_decode_error hfetched), State.refuse,
    State.fetched]

/-- The state checks of R85: the reasons an event the configured block has can be refused for. -/
theorem answer_eq_refused_iff {i : Instr} {s : State} (ha : admission s.cfg i = none) (r : RefusalReason) :
    answer i s = .refused r ↔
      (i ≠ .reset ∧ s.started = false ∧ r = .notStarted) ∨
      (i = .reset ∧ s.started = true ∧ r = .restart) := by
  by_cases hi : i = .reset
  · subst hi
    cases hs : s.started <;> simp [answer, answerReset, hs, eq_comm]
  · cases hs : s.started with
    | true => simp [hi, (answer_passes hi ha hs).2 r]
    | false => simp [hi, answer_not_started hi ha hs, eq_comm]

/-- Settles O11: a word that decodes is refused as its event is, which is admitted, so the state checks alone
can refuse it. -/
theorem wordsAreRefusedExactlyAsR85Says : Obligations.WordsAreRefusedExactlyAsR85Says := by
  intro s w r
  refine ⟨?_, runWord_of_refused⟩
  cases hd : decode s.cfg w with
  | error r' => simp [wordAnswer_of_decode_error hd]
  | ok i =>
    rw [wordAnswer_of_decode_ok hd, answer_eq_refused_iff (decode_ok_admission hd) r]
    simp

/-! ### Device start (R84) -/

/-- Settles O16: before device start `RESET` is performed, and its rule is the list of R84; after it, it is
not. -/
theorem resetFollowsR84 : Obligations.ResetFollowsR84 := by
  refine ⟨rfl, fun s => ⟨fun hs => ?_, fun hs => ⟨?_, ?_⟩⟩⟩
  · have hp : Performable .reset s := ⟨rfl, by simp [hs]⟩
    rw [exec_eq_next, perform_performable hp]
    rfl
  · exact (answer_eq_refused_iff (i := .reset) rfl .restart).mpr (.inr ⟨rfl, hs, rfl⟩)
  · rw [exec_eq_next, perform_reset_of_started hs, State.refuse]

/-! ### The roles of a pin (R30, R86; log 12) -/

/-- On KBD a pin has the roles of its entry. -/
theorem pinRoles_of_kbd {c : Config} (hv : c.variant = .kbd) (p : PhysPin) :
    pinRoles c p = (c.pinMap.lookup p).getD [] := by
  simp [pinRoles, hv]

/-- On KPD a pin has the roles of its entry but `WDOG`, which is on the pin of the parameter. -/
theorem mem_pinRoles_of_kpd {c : Config} (hv : c.variant = .kpd) (p : PhysPin) (r : Role) :
    r ∈ pinRoles c p ↔
      if r = .wdog then p = c.kpdWdogPin else r ∈ (c.pinMap.lookup p).getD [] := by
  by_cases hp : p = c.kpdWdogPin <;> by_cases hr : r = .wdog <;> simp [pinRoles, hv, hp, hr]

/-- Settles O57: `WDOG` is the role that the entry does not place. -/
theorem keypadWatchdogPinIsTheParameter : Obligations.KeypadWatchdogPinIsTheParameter :=
  fun _ p hv => (mem_pinRoles_of_kpd hv p .wdog).trans (by rw [if_pos rfl])

/-! ### Pin writes (R82) -/

theorem mem_canonicalRoles {c : Config} {r : Role} :
    r ∈ canonicalRoles c ↔
      (∃ i < c.rows, r = .row i) ∨ r = .hclk ∨ r = .hdataO ∨ r = .kdataO ∨ r = .wdog := by
  simp [canonicalRoles, eq_comm]

/-- The events that write every role in the canonical order. -/
theorem filterMap_canonicalRoles (c : Config) (l : Level) :
    (canonicalRoles c).filterMap (fun r => roleWriteEvent r l) =
      (List.range c.rows).map (fun r => Instr.wrRow (BitVec.ofNat 8 r) l) ++
        [.wrHclk l, .wrHdata l, .wrKdata l, .wrWdog l] := by
  simp [canonicalRoles, roleWriteEvent, List.filterMap_map, List.filterMap_eq_map']

/-- Rows the block has are the same when their indices are the same word (R41). -/
theorem row_eq_of_ofNat_eq {c : Config} {a b : Nat} (ha : a < c.rows) (hb : b < c.rows)
    (h : BitVec.ofNat 8 a = BitVec.ofNat 8 b) : a = b := by
  have := rows_le_nine c
  exact (ofNat_idx_inj (by omega) (by omega)).mp h

/-- No two canonical roles are written by the same event. -/
theorem filterMap_canonicalRoles_nodup (c : Config) (l : Level) :
    ((canonicalRoles c).filterMap fun r => roleWriteEvent r l).Nodup := by
  have rows_nodup : ((List.range c.rows).map fun r => Instr.wrRow (BitVec.ofNat 8 r) l).Nodup := by
    refine List.Nodup.map_on (fun a ha b hb h => ?_) List.nodup_range
    obtain ⟨h, -⟩ := Instr.wrRow.inj h
    exact row_eq_of_ofNat_eq (List.mem_range.mp ha) (List.mem_range.mp hb) h
  rw [filterMap_canonicalRoles, List.nodup_append]
  exact ⟨rows_nodup, by simp, by simp⟩

/-- A pin write is part of the writes of every role, in their order. -/
theorem pinWriteEvents_sublist (c : Config) (p : PhysPin) (l : Level) :
    (pinWriteEvents c p l).Sublist ((canonicalRoles c).filterMap fun r => roleWriteEvent r l) :=
  List.filter_sublist.filterMap _

/-- A row the block has is written exactly when the pin carries it. -/
theorem wrRow_mem_pinWriteEvents {c : Config} {r : Nat} (hr : r < c.rows) (p : PhysPin) (l : Level) :
    .wrRow (BitVec.ofNat 8 r) l ∈ pinWriteEvents c p l ↔ .row r ∈ pinRoles c p := by
  simp only [pinWriteEvents_eq, List.mem_append, List.mem_map, List.mem_filter, List.mem_range,
    List.mem_ite_nil_right, List.mem_singleton, reduceCtorEq, and_false, or_false, Instr.wrRow.injEq,
    and_true, decide_eq_true_eq]
  constructor
  · rintro ⟨a, ⟨ha, hrole⟩, h⟩
    exact row_eq_of_ofNat_eq ha hr h ▸ hrole
  · exact fun hrole => ⟨r, ⟨hr, hrole⟩, rfl⟩

/-- A pin none of whose roles is a canonical one has no write. -/
theorem pinWriteEvents_eq_nil {c : Config} {p : PhysPin} (h : ∀ r ∈ pinRoles c p, r ∉ canonicalRoles c)
    (l : Level) : pinWriteEvents c p l = [] := by
  have hnone : (canonicalRoles c).filter (fun r => decide (r ∈ pinRoles c p)) = [] :=
    List.filter_eq_nil_iff.mpr fun r hr hp => h r (of_decide_eq_true hp) hr
  rw [pinWriteEvents, hnone, List.filterMap_nil]

/-- A number of eight bits, as the index of an event. -/
theorem toNat_ofNat_idx {n : Nat} (h : n < 256) : (BitVec.ofNat 8 n).toNat = n := by
  rw [BitVec.toNat_ofNat, Nat.mod_eq_of_lt h]

/-- The same level written to several rows: those rows take it, and nothing else changes. -/
theorem performAll_wrRows {s : State} (hs : s.started = true) (l : Level) {rs : List Nat}
    (hrs : ∀ r ∈ rs, r < s.cfg.rows) :
    ∃ v : Mask, performAll (rs.map fun r => .wrRow (BitVec.ofNat 8 r) l) s = { s with rowDrive := v } ∧
      ∀ j < 9, v.getLsbD j = if j ∈ rs then l else s.rowDrive.getLsbD j := by
  induction rs generalizing s with
  | nil => exact ⟨s.rowDrive, rfl, by simp⟩
  | cons r rs ih =>
    have hr : r < s.cfg.rows := hrs r List.mem_cons_self
    have hidx : (BitVec.ofNat 8 r).toNat = r := by
      have := rows_le_nine s.cfg
      exact toNat_ofNat_idx (by omega)
    have hfirst : perform (.wrRow (BitVec.ofNat 8 r) l) s = s.setRowDrive r l := by
      rw [perform_wrRow hs (hidx.symm ▸ hr), hidx]
    obtain ⟨v, hv, hbits⟩ := ih (s := s.setRowDrive r l) hs fun q hq => hrs q (List.mem_cons_of_mem r hq)
    refine ⟨v, by rw [List.map_cons, performAll_cons, hfirst, hv]; rfl, fun j hj => ?_⟩
    rw [hbits j hj, State.setRowDrive_rowDrive, getLsbD_setMaskBit _ _ _ _ hj]
    by_cases hjr : j = r <;> simp [hjr]

/-- The events of a role a pin may carry: its event, executed, or none. -/
theorem exec_performAll_ite (i : Instr) (s : State) (q : Prop) [Decidable q] :
    if q then exec i s = .next (performAll (if q then [i] else []) s)
    else performAll (if q then [i] else []) s = s := by
  split <;> simp [exec_eq_next]

/-- A port write goes pin by pin, in ascending order (R31). -/
theorem portWrite_ascending (pins : List (PhysPin × Level)) (s : State) :
    ∃ ascending : List (PhysPin × Level), ascending.Perm pins ∧
      ascending.Pairwise (fun a b => a.1 ≤ b.1) ∧
      portWrite pins s = ascending.foldl (fun s e => handlePinWrite e.1 e.2 s) s := by
  have : Std.Total fun a b : PhysPin × Level => a.1 ≤ b.1 := ⟨fun a b => Nat.le_total a.1 b.1⟩
  have : IsTrans (PhysPin × Level) fun a b => a.1 ≤ b.1 := ⟨fun _ _ _ => Nat.le_trans⟩
  exact ⟨_, List.perm_insertionSort _ pins, List.pairwise_insertionSort _ pins, rfl⟩

/-- Settles O55: a pin write is the canonical writes with those the pin does not carry left out, and its
effect is theirs, one after another. -/
theorem pinWritePerformsEachRoleOnce : Obligations.PinWritePerformsEachRoleOnce := by
  refine ⟨fun c p l => ⟨?_, ?_, fun r hr => wrRow_mem_pinWriteEvents hr p l, ?_, ?_, ?_, ?_⟩,
    fun s p l hs => ?_, fun s p l h => ?_, fun s pins => portWrite_ascending pins s⟩
  · exact (filterMap_canonicalRoles_nodup c l).sublist (pinWriteEvents_sublist c p l)
  · exact filterMap_canonicalRoles c l ▸ pinWriteEvents_sublist c p l
  · simp [pinWriteEvents_eq]
  · simp [pinWriteEvents_eq]
  · simp [pinWriteEvents_eq]
  · simp [pinWriteEvents_eq]
  · obtain ⟨v, hrows, hbits⟩ := performAll_wrRows hs l
      (rs := (List.range s.cfg.rows).filter fun r => decide (.row r ∈ pinRoles s.cfg p))
      fun r hr => List.mem_range.mp (List.mem_of_mem_filter hr)
    refine ⟨v, _, _, _, fun j hj => by simpa using hbits j hj, exec_performAll_ite (.wrHclk l) _ _,
      exec_performAll_ite (.wrHdata l) _ _, exec_performAll_ite (.wrKdata l) _ _, ?_⟩
    rw [handlePinWrite, pinWriteEvents_eq]
    simp only [performAll_append, hrows]
    exact exec_performAll_ite (.wrWdog l) _ _
  · have hnone : ∀ r ∈ pinRoles s.cfg p, r ∉ canonicalRoles s.cfg := by
      intro r hr hcanonical
      obtain ⟨hrow, hclk, hdata, hkdata, hwdog⟩ := h r hr
      rcases mem_canonicalRoles.mp hcanonical with ⟨i, hi, heq⟩ | heq | heq | heq | heq
      · exact hrow i hi heq
      · exact hclk heq
      · exact hdata heq
      · exact hkdata heq
      · exact hwdog heq
    rw [handlePinWrite, pinWriteEvents_eq_nil hnone, performAll_nil]

/-! ### Pin reads (R83) -/

/-- The read roles the configured block has. -/
theorem readableRole_iff (c : Config) (r : Role) :
    readableRole c r = true ↔
      (∃ j < c.cols, r = .col j) ∨ r = .hdataI ∨ (∃ k < c.nd, r = .direct k) ∨
        (c.variant = .kpd ∧ (r = .kclkI ∨ r = .kdataI)) := by
  cases r <;> simp [readableRole]

/-- `WDOG` is no read role, so a pin's read role is that of its entry on KPD too. -/
theorem pinReadRole_eq_find? (c : Config) (p : PhysPin) :
    pinReadRole c p = ((c.pinMap.lookup p).getD []).find? (readableRole c) := by
  cases hv : c.variant with
  | kbd => rw [pinReadRole, pinRoles_of_kbd hv]
  | kpd =>
    have not_wdog (r : Role) : r ≠ .wdog ∧ readableRole c r = true ↔ readableRole c r = true := by
      cases r <;> simp [readableRole]
    have hplaced : (if p = c.kpdWdogPin then [Role.wdog] else []).find? (readableRole c) = none := by
      split <;> simp [readableRole]
    simp only [pinReadRole, pinRoles, hv, List.find?_append, hplaced, Option.or_none, List.find?_filter,
      decide_eq_true_eq, not_wdog, Bool.decide_eq_true]

/-- The role a pin is read by is one the block has. -/
theorem readableRole_of_pinReadRole {c : Config} {p : PhysPin} {r : Role} (h : pinReadRole c p = some r) :
    readableRole c r = true := List.find?_some h

theorem handlePinRead_of_role {s : State} {p : PhysPin} {r : Role} (h : pinReadRole s.cfg p = some r) :
    handlePinRead p s = roleRead r s := by
  simp [handlePinRead, h]

/-- A level as an unsigned value is one bit. -/
theorem levelValue_eq (l : Level) : levelValue l = if l = true then 1 else 0 := by
  cases l <;> rfl

/-- `RD_KCLK` on a started keypad (R89). -/
theorem answer_rdKclk {s : State} (hs : s.started = true) (hv : s.cfg.variant = .kpd) :
    answer .rdKclk s =
      .value (if (s.kClockIn != s.cfg.kinInvert) = true then 1 else 0)
        (s.emit (.read .kclk 0 (if (s.kClockIn != s.cfg.kinInvert) = true then 1 else 0))) := by
  have hpasses : answer .rdKclk s = _ := guarded_passes (by simp [variantCheck, hv]) hs
  rw [hpasses, readEvent, levelValue_presented]

/-- `RD_KDATA` on a started keypad (R90). -/
theorem answer_rdKdata {s : State} (hs : s.started = true) (hv : s.cfg.variant = .kpd) :
    answer .rdKdata s =
      .value (if (s.kDataIn != s.cfg.kinInvert) = true then 1 else 0)
        (s.emit (.read .kdata 0 (if (s.kDataIn != s.cfg.kinInvert) = true then 1 else 0))) := by
  have hpasses : answer .rdKdata s = _ := guarded_passes (by simp [variantCheck, hv]) hs
  rw [hpasses, readEvent, levelValue_presented]

/-- A read of a column's pin is the column read, of which it returns the column's bit. -/
theorem roleRead_col {s : State} (hs : s.started = true) (j : Nat) :
    roleRead (.col j) s =
      .value (if s.columns.getLsbD j = true then 1 else 0) (s.emit (.read .cols 0 s.columns)) := by
  have hcols : answerRdCols s = _ := answer_rdCols hs
  rw [roleRead, hcols, columnBit, levelValue_eq]

/-- Under R5 no variant has more direct inputs than an index of eight bits can name. -/
theorem nd_le_sixteen {c : Config} (h : c.wf = true) : c.nd ≤ 16 := by
  obtain ⟨-, -, hnd, -⟩ := (config_wf_iff c).mp h
  cases hv : c.variant <;> simp [Config.nd, hv, hnd]

/-- Settles O56: the first read role of the entry is the one read, by its own event. -/
theorem pinReadReturnsItsRole : Obligations.PinReadReturnsItsRole := by
  refine ⟨fun c p => ⟨(pinRoles_of_kbd · p), (mem_pinRoles_of_kpd · p), fun r => ?_, ?_⟩,
    fun s p => ⟨fun h => ?_, fun j hs h => ?_, fun hs h => ?_, fun k l hs hwf hl h => ?_, fun hs h => ?_,
      fun hs h => ?_⟩⟩
  · rw [pinReadRole_eq_find?, List.find?_eq_some_iff_append]
    simp only [← readableRole_iff, Bool.not_eq_true', Bool.not_eq_true]
    constructor
    · rintro ⟨hr, before, after, hentry, hbefore⟩
      exact ⟨before, after, hentry, hr, hbefore⟩
    · rintro ⟨before, after, hentry, hr, hbefore⟩
      exact ⟨hr, before, after, hentry, hbefore⟩
  · rw [pinReadRole_eq_find?, List.find?_eq_none]
    simp only [readableRole_iff]
  · simp [handlePinRead, h]
  · exact (handlePinRead_of_role h).trans (roleRead_col hs j)
  · exact (handlePinRead_of_role h).trans (answer_rdHdata hs)
  · have hk : k < s.cfg.nd := by simpa [readableRole] using readableRole_of_pinReadRole h
    have hidx : (BitVec.ofNat 8 k).toNat = k := by
      have := nd_le_sixteen hwf
      exact toNat_ofNat_idx (by omega)
    exact (handlePinRead_of_role h).trans
      (answer_rdDirect hs (hidx.symm ▸ hk) (hidx.symm ▸ hl))
  · have hv : s.cfg.variant = .kpd := by simpa [readableRole] using readableRole_of_pinReadRole h
    exact (handlePinRead_of_role h).trans (answer_rdKclk hs hv)
  · have hv : s.cfg.variant = .kpd := by simpa [readableRole] using readableRole_of_pinReadRole h
    exact (handlePinRead_of_role h).trans (answer_rdKdata hs hv)

end Sys2Proof.Machine

/-! The chained keyboard (44_keypad_chain.md): the output line toward it and the reads of its two lines. -/

namespace Sys2Proof.Machine

/-- Settles O41: on KBD the variant gate refuses the write; on KPD the rule of R88 shows an observation exactly
when the level changes. -/
theorem wrKdataFollowsR88 : Obligations.WrKdataFollowsR88 := by
  intro l s
  refine ⟨rfl, fun hv => ?_, fun hs hv => ?_⟩
  · exact (keypadEventsRefusedOnKeyboard s l hv (.wrKdata l) List.mem_cons_self).2
  · have hgate : variantCheck s.cfg = none := by simp [variantCheck, hv]
    have hexec : exec (.wrKdata l) s = .next (s.driveKeyboardData l) := exec_of_started nofun hgate hs
    rw [hexec, State.driveKeyboardData_eq]
    constructor
    · rintro rfl
      simp
    · intro hne
      rw [if_neg hne]

/-- Settles O43: on KBD the variant gate refuses both reads; on KPD each value is made of the level of its own
line and the polarity. -/
theorem keypadReadsFollowR89R90 : Obligations.KeypadReadsFollowR89R90 := by
  refine ⟨rfl, rfl, fun s => ⟨fun hv i hi => ?_, fun hs hv => ⟨?_, ?_⟩⟩⟩
  · have hkeypad : i ∈ [Instr.wrKdata false, .rdKclk, .rdKdata, .inKclk false, .inKdata false] :=
      List.mem_cons_of_mem _ (List.mem_append_left [Instr.inKclk false, .inKdata false] hi)
    exact (keypadEventsRefusedOnKeyboard s false hv i hkeypad).2
  · exact ⟨answer_rdKclk hs hv, exec_of_answer_value (answer_rdKclk hs hv)⟩
  · exact ⟨answer_rdKdata hs hv, exec_of_answer_value (answer_rdKdata hs hv)⟩

end Sys2Proof.Machine

/-! The watchdog reset and the end of the sequence (60_exceptions.md): what moves the reset line, and the one
stop of the machine. -/

namespace Sys2Proof.Machine

/-! ### The reset line (R96, R100, R101) -/

/-- What `ADVANCE` does to the reset line under R21: it leaves it as it was, or its one expiry is the long one
or the short one, at the pending deadline. A long expiry with the short one it arms asserts the line and
releases it again, so the line is as it was. -/
theorem State.WatchdogOk.advanceBy_resetLine {s : State} (h : s.WatchdogOk) (d : Nat) :
    (s.advanceBy d).resetAsserted = s.resetAsserted ∨
    (∃ L, s.longDeadline = some L ∧ s.advanceBy d = (s.longExpire L).setNow (s.now + d)) ∨
    (∃ S, s.shortDeadline = some S ∧ s.advanceBy d = (s.shortExpire S).setNow (s.now + d)) := by
  obtain ⟨bound, strict, hadv, -⟩ := h.advanceBy_eq_fireDue d
  rw [hadv]
  rcases fireDue_cases bound strict s with ⟨hf, -⟩ | ⟨L, hl, -, -, hf⟩ | ⟨L, hl, -, -, hf⟩ |
    ⟨S, -, hsd, -, hf⟩ <;> rw [hf]
  · exact .inl rfl
  · exact .inr (.inl ⟨L, hl, rfl⟩)
  · exact .inl (h.not_resetAsserted hl).symm
  · exact .inr (.inr ⟨S, hsd, rfl⟩)

/-- Every rule but those of `RESET` and `ADVANCE` leaves the reset line alone (R96). -/
theorem ruleState_resetAsserted {i : Instr} (hr : i ≠ .reset) (ha : ∀ d, i ≠ .advance d) (s : State) :
    (ruleState i s).resetAsserted = s.resetAsserted := by
  by_cases hw : ∃ l, i = .wrWdog l
  · obtain ⟨l, rfl⟩ := hw
    rcases s.writeWdog_cases l with ⟨-, h⟩ | ⟨-, -, h⟩ <;> rw [ruleState, h]
  · obtain ⟨-, -, -, hline, -⟩ := ruleState_watchdog_frame hr (not_exists.mp hw) ha s
    exact hline

/-- Settles O35: a refusal and every rule but that of `ADVANCE` leave the line alone, and an `ADVANCE` that
changes it fires exactly one expiry. -/
theorem resetLineChangesOnlyByExpiry : Obligations.ResetLineChangesOnlyByExpiry := by
  intro s t hinv hs hstep hne
  obtain ⟨w, rest, he, rfl | ⟨i, hd, hp, rfl⟩⟩ := step_cases hstep
  · exact absurd rfl hne
  by_cases ha : ∃ d, i = .advance d
  · obtain ⟨d, rfl⟩ := ha
    refine ⟨⟨w, d, by rw [he, List.head?_cons], hd⟩, ?_⟩
    have hok : (s.fetched rest).WatchdogOk := hinv.watchdogOk hs
    rcases hok.advanceBy_resetLine d.toNat with hsame | ⟨L, hl, hadv⟩ | ⟨S, hsd, hadv⟩
    · exact absurd hsame.symm hne
    · rw [ruleState, hadv]
      exact ⟨fun _ => ⟨L, hl, rfl, rfl⟩, nofun⟩
    · rw [ruleState, hadv]
      exact ⟨nofun, fun _ => ⟨S, hsd, rfl, rfl⟩⟩
  · have hsame := ruleState_resetAsserted (hp.ne_reset hs) (not_exists.mp ha) (s.fetched rest)
    exact absurd hsame.symm hne

/-! ### The end of the sequence (R95, R97; log 1) -/

/-- With no event left a step stops the machine. -/
theorem step_eq_endOfEvents {s : State} (he : s.events = []) : step s = .fault .endOfEvents := by
  simp [step, stepEvent, he]

/-- Settles O13: a word that is left is taken, and applying it settles its answer, a refusal too. -/
theorem noEventStopsTheMachine : Obligations.NoEventStopsTheMachine := by
  refine fun s => ⟨fun he => ?_, step_eq_endOfEvents⟩
  obtain ⟨w, rest, hw⟩ := List.exists_cons_of_ne_nil he
  exact ⟨_, (step_eq_runWord hw).trans (runWord_eq_next w _)⟩

end Sys2Proof.Machine

/-! Reset and hazards (70_reset_and_hazards.md): a supervised line with no falling edge never starts the
watchdog. -/

namespace Sys2Proof.Machine

/-! ### A firmware that produces no falling edge (R108) -/

/-- Run from `s`, the events write 0 to the supervised line only where that line is 0 already. -/
def WritesNoFallingEdge (is : List Instr) (s : State) : Prop :=
  ∀ before after, is = before ++ .wrWdog false :: after → (performAll before s).wdLine = false

theorem WritesNoFallingEdge.head {l : Level} {is : List Instr} {s : State}
    (h : WritesNoFallingEdge (.wrWdog l :: is) s) : fallingEdge s.wdLine l = false := by
  cases l with
  | true => simp [fallingEdge]
  | false =>
    have hline : s.wdLine = false := h [] is rfl
    rw [hline, fallingEdge_self]

theorem WritesNoFallingEdge.tail {i : Instr} {is : List Instr} {s : State}
    (h : WritesNoFallingEdge (i :: is) s) : WritesNoFallingEdge is (perform i s) :=
  fun before after his => h (i :: before) after (by rw [his, List.cons_append])

/-- The observation a write adds when its line changes (R73, R74, R88) shows nothing of another line. -/
theorem notifications_change_of_ne {line k : OutLine} (hk : k ≠ line) (p : Prop) [Decidable p] (t : Nat)
    (v : Level) : notifications line (if p then [] else [⟨t, .out k v⟩]) = [] := by
  split
  · exact notifications_nil line
  · simp [hk]

/-- Only the expiries that `ADVANCE` fires notify the reset line, after device start (R25, R65, R66). -/
theorem ruleState_notifications_reset {i : Instr} (hr : i ≠ .reset) (ha : ∀ d, i ≠ .advance d) (s : State) :
    notifications .reset (ruleState i s).trace = notifications .reset s.trace := by
  cases i with
  | reset => exact absurd rfl hr
  | advance d => exact absurd rfl (ha d)
  | wrWdog l => rw [ruleState, State.writeWdog_eq]
  | sync => rw [ruleState, State.synchronize_eq]
  | wrHclk l => simp [ruleState, State.driveClock_eq, notifications_append, notifications_change_of_ne]
  | wrHdata l => simp [ruleState, State.driveData_eq, notifications_append, notifications_change_of_ne]
  | wrKdata l => simp [ruleState, State.driveKeyboardData_eq, notifications_append, notifications_change_of_ne]
  | rdCols | rdHdata | rdDirect | rdKclk | rdKdata => simp [ruleState, notifications_append]
  | wrRow | inHdata | inKclk | inKdata | envKeyrow | envDirect => rfl

/-- In ARMED no deadline is pending, so `ADVANCE` only lets the time pass (R65, R67). -/
theorem State.WatchdogOk.advanceBy_of_armed {s : State} (h : s.WatchdogOk) (hw : s.wdState = .armed)
    (d : Nat) : s.advanceBy d = s.setNow (s.now + d) := by
  obtain ⟨hl, hsd, -⟩ := h.of_armed hw
  exact h.advanceBy_of_not_reached (by simp [State.pendingDeadline, hl, hsd])

/-- From ARMED a rule that makes no falling edge stays in ARMED and shows nothing of the reset line: a write
of the supervised line records the level alone, `ADVANCE` finds nothing to fire, and the others leave the
watchdog alone. -/
theorem ruleState_of_armed {i : Instr} {s : State} (hr : i ≠ .reset) (hok : s.WatchdogOk)
    (hw : s.wdState = .armed) (hedge : ∀ l, i = .wrWdog l → fallingEdge s.wdLine l = false) :
    (ruleState i s).wdState = .armed ∧
      notifications .reset (ruleState i s).trace = notifications .reset s.trace := by
  by_cases ha : ∃ d, i = .advance d
  · obtain ⟨d, rfl⟩ := ha
    rw [ruleState, hok.advanceBy_of_armed hw]
    exact ⟨hw, rfl⟩
  refine ⟨?_, ruleState_notifications_reset hr (not_exists.mp ha) s⟩
  by_cases hwdog : ∃ l, i = .wrWdog l
  · obtain ⟨l, rfl⟩ := hwdog
    simp [ruleState, State.writeWdog_eq, hedge l rfl, hw]
  · obtain ⟨hst, -⟩ := ruleState_watchdog_frame hr (not_exists.mp hwdog) (not_exists.mp ha) s
    exact hst.trans hw

/-- A started device of the invariant, in ARMED, whose trace shows `shown` of the reset line. -/
structure State.ArmedShowing (shown : List Level) (s : State) : Prop where
  inv : s.Inv
  started : s.started = true
  armed : s.wdState = .armed
  trace : notifications .reset s.trace = shown

/-- An event that makes no falling edge, refused or not, leaves the device in ARMED with nothing more shown
of the reset line. -/
theorem State.ArmedShowing.perform {shown : List Level} {i : Instr} {s : State} (h : s.ArmedShowing shown)
    (hedge : ∀ l, i = .wrWdog l → fallingEdge s.wdLine l = false) :
    (perform i s).ArmedShowing shown := by
  rcases perform_cases i s with ⟨hp, hperform⟩ | ⟨-, hperform⟩ <;> rw [hperform]
  · have hi := hp.ne_reset h.started
    obtain ⟨hstarted, -⟩ := ruleState_started_and_trace hi s
    obtain ⟨harmed, htrace⟩ := ruleState_of_armed hi (h.inv.watchdogOk h.started) h.armed hedge
    exact ⟨ruleState_inv hp h.inv, hstarted.trans h.started, harmed, htrace.trans h.trace⟩
  · exact ⟨h.inv, h.started, h.armed, h.trace⟩

/-- So does every list of events that makes none. -/
theorem State.ArmedShowing.performAll {shown : List Level} {is : List Instr} {s : State}
    (h : s.ArmedShowing shown) (hline : WritesNoFallingEdge is s) :
    (performAll is s).ArmedShowing shown := by
  induction is generalizing s with
  | nil => exact h
  | cons i is ih =>
    have hedge : ∀ l, i = .wrWdog l → fallingEdge s.wdLine l = false := by
      rintro l rfl
      exact hline.head
    exact ih (h.perform hedge) hline.tail

/-- Settles O37: each event keeps the device in ARMED and shows nothing of the reset line; in ARMED that line
is released (R21). -/
theorem noFallingEdgeNoReset : Obligations.NoFallingEdgeNoReset := by
  intro is s hinv hs hw hline
  have hend := State.ArmedShowing.performAll ⟨hinv, hs, hw, rfl⟩ hline
  obtain ⟨-, -, hreleased⟩ := (hend.inv.watchdogOk hend.started).of_armed hend.armed
  exact ⟨hend.armed, hreleased, hend.trace⟩

end Sys2Proof.Machine
